-- ==== Sys2Proof/Word.lean ====
section
/-! DEFINITION. The word types of the QR53E: the byte every access moves, the 12-bit bus address, the 5-bit coordinate
and the 10-bit stream position (00_scope.md R8; 10_state.md R28, R30, R31; 20_memory.md R61, R64). All are unsigned. -/

namespace Sys2Proof

/-- A byte: the data width of the host bus (R64). -/
abbrev Byte := BitVec 8

/-- A host bus address, 12 bits (R61). -/
abbrev Addr := BitVec 12

/-- A coordinate register, 5 bits: ZX, ZY, CX, CY (R28, R30). -/
abbrev Coord := BitVec 5

/-- The stream position register SPOS, 10 bits (R31). -/
abbrev StreamPos := BitVec 10

end Sys2Proof
end

