-- ==== Sys2Proof/Syntax.lean ====
section
/-! DEFINITION. The command set: one constructor per row of spec/opcode_table.json (30_encoding.md R90, R91). A command
has no operand field; every operand is implicit state (R93). -/

namespace Sys2Proof

/-- The eight commands of R91. -/
inductive Instr where
  /-- NOP, code 0x00 (R240). -/
  | nop
  /-- CLR, code 0x01 (R241). -/
  | clr
  /-- BSENC, code 0x10 (R142). -/
  | bsenc
  /-- RSENC, code 0x20 (R170). -/
  | rsenc
  /-- ZZINIT, code 0x30 (R202). -/
  | zzinit
  /-- ZZNEXT, code 0x31 (R209). -/
  | zznext
  /-- GCLR, code 0x40 (R242). -/
  | gclr
  /-- PLACE, code 0x41 (R213). -/
  | place
deriving DecidableEq, Repr

end Sys2Proof
end

