-- ==== Sys2Proof/Decode.lean ====
section
/-! DEFINITION. The decoder, total on every byte, and after it the encoder (30_encoding.md R90 to R92). A command is one
byte; the decoder matches all eight bits, so no reserved code falls through to a neighbour. -/

namespace Sys2Proof

/-- Why the decoder refuses a byte: it is one of the 248 reserved codes (R92). Writing it to CMD raises E_BADCMD; that is
a defined outcome of the machine, not a stop of the model. -/
inductive DecodeReject where
  | reservedCode (code : Byte)
deriving DecidableEq, Repr

/-- The command a byte encodes, by the map of R91; every other byte is rejected by name (R92). -/
def decode (code : Byte) : Except DecodeReject Instr :=
  match code with
  | 0x00#8 => .ok .nop
  | 0x01#8 => .ok .clr
  | 0x10#8 => .ok .bsenc
  | 0x20#8 => .ok .rsenc
  | 0x30#8 => .ok .zzinit
  | 0x31#8 => .ok .zznext
  | 0x40#8 => .ok .gclr
  | 0x41#8 => .ok .place
  | c => .error (.reservedCode c)

/-- The `unit` field, bits 7:4 of the command byte (R90): 0 system, 1 bit-stream encoder, 2 Reed-Solomon encoder,
3 zig-zag sequencer, 4 grid and placement. -/
def unitField : Instr → BitVec 4
  | .nop => 0
  | .clr => 0
  | .bsenc => 1
  | .rsenc => 2
  | .zzinit => 3
  | .zznext => 3
  | .gclr => 4
  | .place => 4

/-- The `func` field, bits 3:0 of the command byte (R90). -/
def funcField : Instr → BitVec 4
  | .nop => 0
  | .clr => 1
  | .bsenc => 0
  | .rsenc => 0
  | .zzinit => 0
  | .zznext => 1
  | .gclr => 0
  | .place => 1

/-- The command byte of a command, written from the two fields of format CMD8 (R90). -/
def encode (i : Instr) : Byte := unitField i ++ funcField i

/-- The byte that an instruction of `nbits` bits with value `w` puts on the data lines of the write to CMD: a command is
one byte, bits above `nbits` are 0 (DESIGN CHOICE, log entry 12). -/
def commandByte (nbits w : Nat) : Byte := BitVec.ofNat 8 (w % 2 ^ nbits)

/-- What the decoder reads from an instruction whose bits are `w`, numbered as spec/opcode_table.json numbers them. -/
def decodeTableWord (nbits w : Nat) : Option Instr :=
  match decode (commandByte nbits w) with
  | .ok i => some i
  | .error _ => none

end Sys2Proof
end

