-- ==== Sys2Proof/Config.lean ====
section
/-! DEFINITION. The fixed constants of the one profile and the named parameters with their default values
(00_scope.md R2, R5; 30_encoding.md R98; 40_gf256_tables.md R129). Nothing here is state: no register holds any of it
and no command changes it. -/

namespace Sys2Proof.Config

/-- The encoding modes as the closed sum type of R98; one arm is populated. -/
inductive Mode where
  | numeric | alphanumeric | byte
deriving DecidableEq, Repr

/-- The error-correction levels as the closed sum type of R98; one arm is populated. -/
inductive EcLevel where
  | l | m | q | h
deriving DecidableEq, Repr

/-- VERSION (R5). -/
abbrev version : Nat := 3
/-- ECL, constant L (R2, R5). -/
abbrev ecLevel : EcLevel := .l
/-- MODE, constant Byte: what the mode selector answers for every payload (R2, R140). -/
abbrev mode : Mode := .byte
/-- N, modules per side of the grid (R5). -/
abbrev gridSize : Nat := 29
/-- MAX_PAYLOAD in bytes (R5). -/
abbrev maxPayload : Nat := 53
/-- CAP_BITS, the data-bit capacity (R5; 90_conflicts.md C2). -/
abbrev capBits : Nat := 440
/-- K, the data codewords of the single block (R5, R171). -/
abbrev dataLen : Nat := 55
/-- EC_LEN, the error-correction codewords of a block and the generator's degree (R5, R171). -/
abbrev ecLen : Nat := 15
/-- NB, the number of blocks (R5). -/
abbrev numBlocks : Nat := 1
/-- NCW, the codewords of the final sequence (R5, R96). -/
abbrev numCodewords : Nat := 70
/-- TERM_MAX, the terminator bits at most (R5, R147). -/
abbrev termMax : Nat := 4
/-- PAD0, the first pad codeword (R5, R149). -/
abbrev pad0 : Byte := 0xEC
/-- PAD1, the second pad codeword (R5, R149). -/
abbrev pad1 : Byte := 0x11
/-- TIMING_COL, the column the traversal skips (R5, R207). -/
abbrev timingCol : Nat := 6
/-- NCOORD, the coordinates the traversal yields, and so the steps PLACE takes at most (R5, R210, R290). -/
abbrev numCoords : Nat := 812
/-- PAY_SIZE, the bytes of the payload buffer (R5, R32). -/
abbrev paySize : Nat := 64
/-- PLEN_MAX, where the payload counter saturates (R5, R26). -/
abbrev plenMax : Nat := 255
/-- GRID_STRIDE, window bytes per grid row (R5, R69). -/
abbrev gridStride : Nat := 32

/-- The rows of R5 marked "parameter", each with the value R5 states as its default. -/
structure Params where
  /-- REM_BITS, the zero bits after the last codeword, 0 to 7 (R5, R177; 90_conflicts.md C1). -/
  remBits : Nat := 7
  /-- MODE_IND, the 4-bit mode indicator (R5, R143). -/
  modeInd : BitVec 4 := 0b0100
  /-- CCW, the width of the character-count field, 6 to 12 (R5, R144). -/
  ccw : Nat := 8
  /-- GF_PRIM, the field polynomial as a number with bit 8 set (R5, R120). -/
  gfPrim : Nat := 0x11D
  /-- GF_ALPHA, the primitive element (R5, R120). -/
  gfAlpha : Byte := 0x02
  /-- GEN_FIRST_ROOT, the exponent of the generator's first root (R5, R126). -/
  genFirstRoot : Nat := 0
deriving DecidableEq, Repr

/-- The parameters of the machine that this package models: R5's defaults. DESIGN CHOICE, log entry 2. -/
abbrev params : Params := {}

end Sys2Proof.Config
end

