-- ==== Sys2Proof/Machine/State.lean ====
section
/-! DEFINITION. The state of the machine as plain data: the block's own components (10_state.md R20, all of them), and
beside it the host's side of the bus (the transactions it will issue and the bytes its reads returned), which is the
model's own because the block fetches nothing (10_state.md R38, 44_system_commands.md R243). -/

namespace Sys2Proof.Machine

/-- OPST, the operating state (R21). -/
inductive OpState where
  | ready | faulted
deriving DecidableEq, Repr

/-- A Module value, the content of one grid cell (R34). -/
inductive Module where
  /-- uninitialised -/
  | unknown
  /-- earmarked, value assigned later -/
  | reserved
  /-- fixed pattern, never holds payload -/
  | function (dark : Bool)
  /-- payload or error-correction bit -/
  | data (dark : Bool)
deriving DecidableEq, Repr

/-- The names of the recoverable errors (60_exceptions.md R251). The two that no rule raises keep their names (R265,
R266). -/
inductive ErrName where
  | msgTooLong | unsupportedMode | incomplete | seq | badCmd
deriving DecidableEq, Repr

/-- The names of the latched faults (60_exceptions.md R252). -/
inductive FaultName where
  | count | overwrite | bsLen
deriving DecidableEq, Repr

/-- A memory of the block: the bytes that differ from the reset contents, by index, indices strictly rising. PAY and CW
are indexed as R32 and R33 number them; GRID by 32*y + x, the offset in its window (20_memory.md R69). DESIGN CHOICE, log entry 5. -/
abbrev Memory := List Host.Cell

/-- What an index that a memory does not list reads as: the reset contents, 0x00 in PAY and CW and the code of Unknown
in GRID (R40, R94). -/
def unlisted : Byte := 0x00

/-- The traversal cursor: ZX, ZY and the flags UP, HNEXT, ZV (R28, R29, R201). -/
structure Cursor where
  /-- ZX, the column of the coordinate yielded next. -/
  zx : Coord
  /-- ZY, its row. -/
  zy : Coord
  /-- UP, the vertical direction is upward. -/
  up : Bool
  /-- HNEXT, the next move is the horizontal one. -/
  hnext : Bool
  /-- ZV, the sequence can still yield (ZX, ZY). -/
  zv : Bool
deriving DecidableEq, Repr

/-- The complete state of the block, the tuple of R20. CMD and PDATA store nothing (R22, R27), STATUS, ZFLAGS and STR are
views (R23, R29, R36), and the ROM tables and parameters are configuration (R35). -/
structure Block where
  /-- OPST (R21). -/
  opst : OpState
  /-- ERR, the outcome of the most recent command (R24). -/
  err : Byte
  /-- FCODE, the code of the latched fault (R25). -/
  fcode : Byte
  /-- DV, the data codewords are valid (R23). -/
  dv : Bool
  /-- CV, the error-correction codewords are valid (R23). -/
  cv : Bool
  /-- PV, placement done (R23). -/
  pv : Bool
  /-- PLEN, the bytes pushed, saturating at 255 (R26). -/
  plen : Byte
  /-- PAY, the payload buffer, indices 0..63 (R32). -/
  pay : Memory
  /-- CW, the codeword buffer, indices 0..69 (R33). -/
  cw : Memory
  /-- GRID, the cell codes, index 32*y + x (R34, R94). -/
  grid : Memory
  /-- ZX, ZY, UP, HNEXT, ZV (R28, R29). -/
  cursor : Cursor
  /-- CX, the last column yielded (R30). -/
  cx : Coord
  /-- CY, the last row yielded (R30). -/
  cy : Coord
  /-- COV, a coordinate was yielded (R29, R30). -/
  cov : Bool
  /-- SPOS, the index of the next stream bit to place (R31). -/
  spos : StreamPos
deriving DecidableEq, Repr

/-- The reset value of every component (R40). -/
def Block.reset : Block where
  opst := .ready
  err := 0x00
  fcode := 0x00
  dv := false
  cv := false
  pv := false
  plen := 0x00
  pay := []
  cw := []
  grid := []
  cursor := { zx := 0, zy := 0, up := false, hnext := false, zv := false }
  cx := 0
  cy := 0
  cov := false
  spos := 0

/-- The three operations the host has on the block (20_memory.md R61). -/
inductive Transaction where
  /-- HostRead(addr) -/
  | read (addr : Addr)
  /-- HostWrite(addr, v) -/
  | write (addr : Addr) (v : Byte)
  /-- Reset, the hardware reset -/
  | reset
deriving DecidableEq, Repr

/-- What a bus address selects: the rows of the address map (20_memory.md R62). -/
inductive Target where
  | cmd | status | err | fcode | plen | pdata | zx | zy | zflags | cx | cy | sposL | sposH
  /-- CW window, byte i -/
  | cw (i : Nat)
  /-- PAY window, byte i -/
  | pay (i : Nat)
  /-- GRID window, cell (x, y) -/
  | cell (x y : Nat)
  /-- a reserved address or a hole of the GRID window -/
  | reserved
deriving DecidableEq, Repr

/-- The machine: the block, and the host's side of the bus. -/
structure State where
  /-- The block's complete state (R20). -/
  block : Block
  /-- DESIGN CHOICE, the model's own (log entry 1): the transactions the host will issue, the next one first (R61, R75, R99). -/
  script : List Transaction
  /-- DESIGN CHOICE, the model's own (log entry 1): the bytes the host's reads returned, the latest first (R61). -/
  replies : List Byte
deriving DecidableEq, Repr

/-- The machine right after reset: the block at its reset values (R40, R281), no transaction issued yet and none
answered. -/
def State.reset : State := { block := Block.reset, script := [], replies := [] }

/-- What stops the machine without a next state: nothing does. The block's own faults are latched states (R255, R256):
a next state with OPST = FAULTED, never a stop of the model (DEDUCED, log entry 3). No meaning raises a member of this type; it is empty, which
is safe. -/
inductive Fault where
deriving DecidableEq, Repr

/-- Why the model gives an instruction no meaning. -/
inductive Refusal where
  /-- Raised by an arm of exec whose instruction has no meaning yet, under its mnemonic. Safe: the model stops. No arm
  raises it in this package. -/
  | notModelled (mnemonic : String)
deriving DecidableEq, Repr

end Sys2Proof.Machine
end

