-- ==== Sys2Proof/Machine/Ops.lean ====
section
/-! DEFINITION. The named operations over the block's memories and cells, the outcome of a command (success, error,
fault, the FAULTED gate) and the hardware reset. Errors and faults are entered here and nowhere else (60_exceptions.md
R253, R255); the only exit from FAULTED stands beside them (R257). -/

namespace Sys2Proof.Machine

/-! ### Memories (10_state.md R32 to R34; 20_memory.md R60, R64, R79) -/

/-- The byte at an index; an index not listed reads as the reset contents. The search stops at the first entry that is
not below the index. (`List.rec`, not a pattern match, because the kernel evaluates it faster: `below` is the answer of
the rest of the list.) -/
def Memory.get (m : Memory) (a : Nat) : Byte :=
  m.rec unlisted fun entry _ below =>
    bif Nat.blt entry.1 a then below else bif Nat.beq entry.1 a then entry.2 else unlisted

/-- List one byte before the entries of higher indices, unless it equals what an unlisted index reads as. -/
def Memory.put (a : Nat) (v : Byte) (rest : Memory) : Memory := if v = unlisted then rest else (a, v) :: rest

/-- Store one byte, keeping the canonical form: the entry stands at its place in the rising order, and a byte equal to
what an unlisted index reads as is not listed. -/
def Memory.set (m : Memory) (a : Nat) (v : Byte) : Memory :=
  m.rec (Memory.put a v []) fun entry rest below =>
    bif Nat.blt entry.1 a then entry :: below
    else bif Nat.beq entry.1 a then Memory.put a v rest
    else Memory.put a v (entry :: rest)

/-- Store bytes at consecutive indices, the first at `base`. -/
def Memory.setRange : Memory → Nat → List Byte → Memory
  | m, _, [] => m
  | m, base, v :: vs => Memory.setRange (m.set base v) (base + 1) vs

/-- The `n` bytes from index `base` on. -/
def Memory.getRange (m : Memory) (base n : Nat) : List Byte :=
  (List.range n).map fun i => m.get (base + i)

/-- Every index at its reset contents. -/
def Memory.clear : Memory := []

/-- The canonical form from a lower bound on: indices strictly rising and at least `lo`, no entry at the reset
contents. -/
def Memory.wfFrom : Nat → Memory → Bool
  | _, [] => true
  | lo, (k, v) :: rest => decide (lo ≤ k) && decide (v ≠ unlisted) && Memory.wfFrom (k + 1) rest

/-- The canonical form. -/
def Memory.wf (m : Memory) : Bool := m.wfFrom 0

/-! ### Cells (10_state.md R34; 30_encoding.md R94; 20_memory.md R69, R70; 43_zigzag_placement.md R212) -/

/-- The kind bits `code[2:1]` of a Module value (R94). -/
def Module.kind : Module → BitVec 2
  | .unknown => 0b00
  | .reserved => 0b01
  | .function _ => 0b10
  | .data _ => 0b11

/-- The dark bit `code[0]`: the dark/light query for a Function or Data cell, 0 for the others (R69, R94). -/
def Module.isDark : Module → Bool
  | .unknown => false
  | .reserved => false
  | .function dark => dark
  | .data dark => dark

/-- The cell byte of a Module value: bits 7:3 zero, then the kind and the dark bit (R69, R94). -/
def Module.code (m : Module) : Byte := 0#5 ++ m.kind ++ BitVec.ofBool m.isDark

/-- The Module value that a cell byte encodes (R94). A byte that is no legal code, which no step stores, reads by its bits
2:0 (DESIGN CHOICE, log entry 6). -/
def Module.ofCode (code : Byte) : Module :=
  match code.extractLsb' 1 2 with
  | 0b00#2 => .unknown
  | 0b01#2 => .reserved
  | 0b10#2 => .function (code.getLsbD 0)
  | _ => .data (code.getLsbD 0)

/-- `is_fun`: Function and Reserved cells, which placement skips (R212). -/
def Module.isFun : Module → Bool
  | .unknown => false
  | .reserved => true
  | .function _ => true
  | .data _ => false

/-- The byte that a host write of `v` to a cell stores: bits 7:3 are ignored, and bit 0 is forced to 0 when the kind is
Unknown or Reserved (R70). -/
def legalise (v : Byte) : Byte :=
  if v.getLsbD 2 then 0#5 ++ v.extractLsb' 0 3 else 0#5 ++ v.extractLsb' 1 2 ++ 0#1

/-- The index in GRID of the cell (x, y): its offset in the window (R69). -/
def cellIndex (x y : Nat) : Nat := Config.gridStride * y + x

/-- GRID[x, y]. -/
def Block.cell (b : Block) (x y : Nat) : Module := Module.ofCode (b.grid.get (cellIndex x y))

/-- GRID[x, y] <- m. -/
def Block.setCell (b : Block) (x y : Nat) (m : Module) : Block :=
  { b with grid := b.grid.set (cellIndex x y) m.code }

/-! ### The outcome of a command (10_state.md R24, R25; 60_exceptions.md R250 to R257) -/

/-- The error code of a named error (R251). -/
def ErrName.code : ErrName → Byte
  | .msgTooLong => 0x01
  | .unsupportedMode => 0x02
  | .incomplete => 0x03
  | .seq => 0x04
  | .badCmd => 0x05

/-- The fault code of a named fault (R252). -/
def FaultName.code : FaultName → Byte
  | .count => 0x01
  | .overwrite => 0x02
  | .bsLen => 0x03

/-- A command that succeeds: ERR <- 0x00 (R24). -/
def Block.succeed (b : Block) : Block := { b with err := 0x00 }

/-- `raise Error(code)`: ERR <- code, and nothing else (R253). -/
def Block.raiseError (e : ErrName) (b : Block) : Block := { b with err := e.code }

/-- `raise Fault(code)`: FCODE <- code, ERR <- 0xFF, OPST <- FAULTED; what the command wrote before stands (R255). -/
def Block.raiseFault (f : FaultName) (b : Block) : Block :=
  { b with fcode := f.code, err := 0xFF, opst := .faulted }

/-- The exit from FAULTED, and from any state: every component at its reset value (R257, R280). -/
def Block.hardReset (_ : Block) : Block := Block.reset

/-- What a host write does to the block: its effect in READY, nothing in FAULTED (20_memory.md R74). -/
def Block.whenReady (f : Block → Block) (b : Block) : Block :=
  match b.opst with
  | .ready => f b
  | .faulted => b

/-- The machine with its block changed and the host's side as it was. -/
def State.mapBlock (f : Block → Block) (s : State) : State := { s with block := f s.block }

/-- One command: an indivisible change of the block, in READY only (R6, R22, R256). That the gate stands here, so that
exec itself does nothing in FAULTED, is DEDUCED from 44_system_commands.md R244 (log entry 4). -/
def command (f : Block → Block) (s : State) : Host.Outcome State Fault Refusal :=
  .next (s.mapBlock (Block.whenReady f))

end Sys2Proof.Machine
end

