-- ==== Sys2Proof/Machine/Operands.lean ====
section
/-! DEFINITION. The operands of the commands. No command carries one (30_encoding.md R93): each is a view of the state
written here, with the bit sequences of 00_scope.md R8 they are made of. -/

namespace Sys2Proof.Machine

/-- `bits_msb(v, n)`: the bits v[n-1], ..., v[0] (R8). -/
def bitsMsb (v n : Nat) : List Bool := (List.range n).map fun k => v.testBit (n - 1 - k)

/-- The number whose bits, most significant first, are the sequence. -/
def natOfBits (bits : List Bool) : Nat := bits.foldl (fun acc bit => 2 * acc + bit.toNat) 0

/-- `byte_of(s)` for an 8-bit sequence: byte[7-k] = s[k] (R8). -/
def byteOf (bits : List Bool) : Byte := BitVec.ofNat 8 (natOfBits bits)

/-- The operand of BSENC: PAY[0], ..., PAY[PLEN-1] (41_bitstream.md R141). -/
def Block.payload (b : Block) : List Byte := b.pay.getRange 0 b.plen.toNat

/-- The data codewords, the operand of RSENC: CW[0..54] (10_state.md R33). -/
def Block.dataWords (b : Block) : List Byte := b.cw.getRange 0 Config.dataLen

/-- The error-correction codewords CW[55..69] (R33). -/
def Block.ecWords (b : Block) : List Byte := b.cw.getRange Config.dataLen Config.ecLen

/-- SLEN, the length of the final stream in bits (00_scope.md R5; 42_reed_solomon.md R178). -/
def slen (p : Config.Params) : Nat := 8 * Config.numCodewords + p.remBits

/-- `stream_bit(i)`, the operand of PLACE: bit 7 - (i mod 8) of CW[i div 8], then zeros (R36, R178). -/
def Block.streamBit (b : Block) (i : Nat) : Bool :=
  if i < 8 * Config.numCodewords then (b.cw.get (i / 8)).getLsbD (7 - i % 8) else false

/-- STR, the final stream as a sequence: a view of CW, not state (R36). -/
def Block.stream (p : Config.Params) (b : Block) : List Bool := (List.range (slen p)).map b.streamBit

end Sys2Proof.Machine
end

