-- ==== Sys2Proof/Machine/Bitstream.lean ====
section
/-! DEFINITION. The bit-stream encoder: the PDATA push and the command BSENC (41_bitstream.md R140 to R153; 10_state.md
R27; 30_encoding.md R95). The pure functions come first and the command is stated through them (00_scope.md R7). -/

namespace Sys2Proof.Machine

/-- What a host write of `v` to PDATA does in READY: store the byte if PLEN is below 64, and count it, saturating at 255
(R27). -/
def Block.push (v : Byte) (b : Block) : Block :=
  let n := b.plen.toNat
  { b with
    pay := if n < Config.paySize then b.pay.set n v else b.pay
    plen := BitVec.ofNat 8 (min (n + 1) Config.plenMax) }

/-- The mode selector: byte mode matches every payload (R140). -/
def selectMode (_payload : List Byte) : Config.Mode := Config.mode

/-- `matches(s)`: byte mode accepts any byte sequence (R140). -/
def modeMatches (_payload : List Byte) : Bool := true

/-- The MessageTooLong condition on a payload of `n` bytes: steps 1 to 3 overflow the capacity (R146). -/
def tooLong (p : Config.Params) (n : Nat) : Bool := decide (Config.capBits < 4 + p.ccw + 8 * n)

/-- Steps 1 to 3: mode indicator, character count, payload (R143 to R145). -/
def headerAndPayload (p : Config.Params) (pay : List Byte) : List Bool :=
  bitsMsb p.modeInd.toNat 4 ++ bitsMsb pay.length p.ccw ++ pay.flatMap fun v => bitsMsb v.toNat 8

/-- Step 4, the terminator: up to 4 zero bits, only as many as fit under capacity (R147). -/
def addTerminator (bits : List Bool) : List Bool :=
  bits ++ List.replicate (min Config.termMax (Config.capBits - bits.length)) false

/-- Step 5, alignment: zero bits up to a multiple of 8 (R148). -/
def addAlignment (bits : List Bool) : List Bool :=
  bits ++ List.replicate ((8 - bits.length % 8) % 8) false

/-- Step 6, the pad codewords: while the sequence is short of the capacity, append PAD0 for an even count `k` and PAD1
for an odd one (R149). The first argument bounds the passes. -/
def addPads : Nat → Nat → List Bool → List Bool
  | 0, _, bits => bits
  | passes + 1, k, bits =>
    if bits.length < Config.capBits then
      addPads passes (k + 1) (bits ++ bitsMsb (if k % 2 = 0 then Config.pad0 else Config.pad1).toNat 8)
    else bits

/-- The frame of a payload, steps 1 to 6. A pass of step 6 adds 8 bits, so 55 passes reach the capacity from anywhere
(R142, R290). -/
def frameBits (p : Config.Params) (pay : List Byte) : List Bool :=
  addPads Config.dataLen 0 (addAlignment (addTerminator (headerAndPayload p pay)))

/-- Packing: data codeword c is the eight bits from 8c on, the first of them in bit 7 (R151). -/
def packBits (bits : List Bool) : List Byte :=
  (List.range Config.dataLen).map fun c => byteOf ((bits.drop (8 * c)).take 8)

/-- `bs_encode`: the 55 data codewords of a payload, or none for the error MessageTooLong (R152). -/
def bsEncode (p : Config.Params) (pay : List Byte) : Option (List Byte) :=
  if tooLong p pay.length then none else some (packBits (frameBits p pay))

/-- Data codeword c of a payload in closed form, for the default parameters (R153): the mode indicator and the count,
each nibble shifted by half a byte, then the pad codewords. -/
def frameByte (pay : List Byte) (c : Nat) : Byte :=
  let n := pay.length
  let field := fun i => if i = 0 then BitVec.ofNat 8 n else pay.getD (i - 1) 0x00
  if c = 0 then 0x4#4 ++ (field 0).extractLsb' 4 4
  else if c ≤ n then (field (c - 1)).extractLsb' 0 4 ++ (field c).extractLsb' 4 4
  else if c = n + 1 then (field n).extractLsb' 0 4 ++ 0x0#4
  else if (c - 2 - n) % 2 = 0 then Config.pad0 else Config.pad1

/-- What BSENC does to the block, line by line as R142: the length test first, then the frame, the length check of R150,
the 55 bytes, DV <- 1, CV <- 0, ERR <- 0x00. -/
def Block.encodeBits (p : Config.Params) (b : Block) : Block :=
  if tooLong p b.plen.toNat then b.raiseError .msgTooLong
  else
    let bits := frameBits p b.payload
    if bits.length ≠ Config.capBits then b.raiseFault .bsLen
    else ({ b with cw := b.cw.setRange 0 (packBits bits), dv := true, cv := false }).succeed

/-- BSENC (R142). -/
def execBsenc (s : State) : Host.Outcome State Fault Refusal := command (Block.encodeBits Config.params) s

end Sys2Proof.Machine
end

