-- ==== Sys2Proof/Machine/Zigzag.lean ====
section
/-! DEFINITION. The zig-zag coordinate sequencer: the traversal state machine, the commands ZZINIT and ZZNEXT, and the
sequence as a whole (43_zigzag_placement.md R200 to R211). No traversal rule reads GRID or CW (R201). -/

namespace Sys2Proof.Machine

/-- The fresh cursor: bottom-right cell, upward, horizontal move first (R202). -/
def Cursor.start : Cursor := { zx := 28, zy := 28, up := true, hnext := true, zv := true }

/-- `col_left`: one column left, two when one would land on column 6, end of the sequence at column 0 (R203, R207,
R208). -/
def Cursor.colLeft (c : Cursor) : Cursor :=
  if c.zx = 0 then { c with zv := false }
  else if c.zx = 7 then { c with zx := 5 }
  else { c with zx := c.zx - 1 }

/-- The vertical move is due on the edge it runs toward (R206). -/
def Cursor.atEdge (c : Cursor) : Bool := (c.up && c.zy == 0) || (!c.up && c.zy == 28)

/-- `zz_advance`, the transition from one coordinate to the next (R204 to R206). -/
def Cursor.advance (c : Cursor) : Cursor :=
  if c.hnext then { c.colLeft with hnext := false }
  else if c.atEdge then { ({ c with up := !c.up }).colLeft with hnext := true }
  else { c with zx := c.zx + 1, zy := if c.up then c.zy - 1 else c.zy + 1, hnext := true }

/-- The yield of the lazy sequence: (CX, CY) <- (ZX, ZY), COV <- 1, and the cursor advances (R209). -/
def Block.yieldCoord (b : Block) : Block :=
  { b with cx := b.cursor.zx, cy := b.cursor.zy, cov := true, cursor := b.cursor.advance }

/-- What ZZINIT does to the block: a fresh cursor, COV <- 0; CX and CY stay (R202). -/
def Block.initTraversal (b : Block) : Block := ({ b with cursor := Cursor.start, cov := false }).succeed

/-- ZZINIT (R202). -/
def execZzinit (s : State) : Host.Outcome State Fault Refusal := command Block.initTraversal s

/-- What ZZNEXT does to the block: yield and advance while the sequence is live, COV <- 0 once it has ended (R209). -/
def Block.nextCoord (b : Block) : Block :=
  if b.cursor.zv then b.yieldCoord.succeed else ({ b with cov := false }).succeed

/-- ZZNEXT (R209). -/
def execZznext (s : State) : Host.Outcome State Fault Refusal := command Block.nextCoord s

/-! ### The sequence as a whole (R210) -/

/-- The coordinates a cursor yields until it ends, at most `n` of them. -/
def Cursor.yields : Nat → Cursor → List (Nat × Nat)
  | 0, _ => []
  | n + 1, c => if c.zv then (c.zx.toNat, c.zy.toNat) :: Cursor.yields n c.advance else []

/-- `zz_seq`: the coordinates of a fresh traversal. The bound is one more than R210's length, so it cuts nothing off. -/
def zzSeq : List (Nat × Nat) := Cursor.yields (Config.numCoords + 1) Cursor.start

/-- The right column of band b: 28, 26, ..., 8, then 5, 3, 1 (R210). -/
def bandRight (b : Nat) : Nat := if b ≤ 10 then 28 - 2 * b else 27 - 2 * b

/-- The closed form of the n-th coordinate, n = 0..811 (R210). -/
def coordAt (n : Nat) : Nat × Nat :=
  let b := n / 58
  let r := n % 58
  let t := r / 2
  (bandRight b - r % 2, if b % 2 = 0 then 28 - t else t)

/-- The cursor that yields the n-th coordinate next: upward in even bands, the horizontal move due at a right column
(R201, R204, R210); from n = 812 on, the ended cursor of R208. -/
def cursorAt (n : Nat) : Cursor :=
  if n < Config.numCoords then
    { zx := BitVec.ofNat 5 (coordAt n).1, zy := BitVec.ofNat 5 (coordAt n).2, up := n / 58 % 2 == 0,
      hnext := n % 58 % 2 == 0, zv := true }
  else { zx := 0, zy := 28, up := true, hnext := true, zv := false }

end Sys2Proof.Machine
end

