-- ==== Sys2Proof/Machine/Placement.lean ====
section
/-! DEFINITION. The data placement engine: the command PLACE (43_zigzag_placement.md R212 to R218). -/

namespace Sys2Proof.Machine

/-- One pass of PLACE's loop at a live cursor: yield the coordinate, then skip a function cell, or raise F_COUNT when
the stream is used up, or raise F_OVERWRITE at a Data cell, or write the stream bit and count it (R213 to R216). The
second component is the fault raised, if any. -/
def placeVisit (p : Config.Params) (b : Block) : Block × Option FaultName :=
  let x := b.cursor.zx.toNat
  let y := b.cursor.zy.toNat
  let m := b.cell x y
  let b' := b.yieldCoord
  if m.isFun then (b', none)
  else if slen p ≤ b'.spos.toNat then (b', some .count)
  else
    match m with
    | .data _ => (b', some .overwrite)
    | _ =>
      let written := b'.setCell x y (.data (b'.streamBit b'.spos.toNat))
      ({ written with spos := written.spos + 1 }, none)

/-- PLACE's loop while the cursor is live, ended early by a fault. The first argument bounds the passes. -/
def placeLoop (p : Config.Params) : Nat → Block → Block × Option FaultName
  | 0, b => (b, none)
  | passes + 1, b =>
    if b.cursor.zv then
      match placeVisit p b with
      | (b', none) => placeLoop p passes b'
      | (b', some f) => (b', some f)
    else (b, none)

/-- The block as PLACE's loop starts: a fresh cursor, COV <- 0, SPOS <- 0 (R213). -/
def Block.placeStart (b : Block) : Block := { b with cursor := Cursor.start, cov := false, spos := 0 }

/-- What PLACE does to the block, line by line as R213. The traversal has 812 coordinates, so 812 passes end it (R210,
R290). -/
def Block.placeStream (p : Config.Params) (b : Block) : Block :=
  if b.cv then
    match placeLoop p Config.numCoords b.placeStart with
    | (b', some f) => b'.raiseFault f
    | (b', none) =>
      if b'.spos.toNat ≠ slen p then b'.raiseFault .count else ({ b' with pv := true }).succeed
  else b.raiseError .seq

/-- PLACE (R213). -/
def execPlace (s : State) : Host.Outcome State Fault Refusal := command (Block.placeStream Config.params) s

end Sys2Proof.Machine
end

