-- ==== Sys2Proof/Machine/Field.lean ====
section
/-! DEFINITION. The field and the generator polynomial that the parameters GF_PRIM, GF_ALPHA and GEN_FIRST_ROOT name, by
the rules that generate the tables (40_gf256_tables.md R120, R122, R124, R126; 00_scope.md R5), and the conditions those
rules put on the parameters. -/

namespace Sys2Proof.Machine

/-- `v << 1`, reduced by the field polynomial `prim` when it leaves the byte (R122, R124). -/
def gfDouble (prim : Nat) (v : Byte) : Byte :=
  if 2 * v.toNat < 256 then BitVec.ofNat 8 (2 * v.toNat) else BitVec.ofNat 8 ((2 * v.toNat) ^^^ prim)

/-- One pass per bit of the multiplier in the shift-and-add product: `i` bits are left, `r` is the sum so far (R124). -/
def gfMulShiftLoop (prim : Nat) : Nat → Byte → Byte → Byte → Byte
  | 0, _, _, r => r
  | i + 1, a, b, r =>
    gfMulShiftLoop prim i (gfDouble prim a) (b >>> 1) (if b.getLsbD 0 then r ^^^ a else r)

/-- The product by shift and add: the polynomial product reduced modulo `prim` (R124). -/
def gfMulShift (prim : Nat) (a b : Byte) : Byte := gfMulShiftLoop prim 8 a b 0x00

/-- alpha^e by repeated multiplication (R120, R122). -/
def gfPow (p : Config.Params) : Nat → Byte
  | 0 => 0x01
  | e + 1 => gfMulShift p.gfPrim p.gfAlpha (gfPow p e)

/-- `n` successive powers of alpha, the first of them `v` (R122). -/
def powersFrom (p : Config.Params) : Nat → Byte → List Byte
  | 0, _ => []
  | n + 1, v => v :: powersFrom p n (gfMulShift p.gfPrim p.gfAlpha v)

/-- alpha^0, ..., alpha^254 (R120). -/
def powers (p : Config.Params) : List Byte := powersFrom p 255 0x01

/-- The product of a polynomial, highest power first, with (x + root) (R126). -/
def mulLinear (p : Config.Params) (poly : List Byte) (root : Byte) : List Byte :=
  List.zipWith (· ^^^ ·) (poly ++ [0x00]) (0x00 :: poly.map (gfMulShift p.gfPrim root))

/-- (x + alpha^r0)(x + alpha^(r0+1)) ... , `n` factors, r0 the parameter GEN_FIRST_ROOT (R126). -/
def generatorPoly (p : Config.Params) : Nat → List Byte
  | 0 => [0x01]
  | n + 1 => mulLinear p (generatorPoly p n) (gfPow p (p.genFirstRoot + n))

/-! ### The conditions on the parameters -/

/-- GF_PRIM is a polynomial of degree 8 (R120). -/
def primOk (p : Config.Params) : Bool := decide (256 ≤ p.gfPrim) && decide (p.gfPrim < 512)

/-- GF_ALPHA is primitive: alpha^0, ..., alpha^254 are the 255 non-zero elements, each exactly once (R120). -/
def alphaPrimitive (p : Config.Params) : Bool :=
  (powers p).isPerm ((List.range 255).map fun k => BitVec.ofNat 8 (k + 1))

/-- None of the generator's coefficients is zero (R126), so each of them has a logarithm (R127). -/
def genNonzero (p : Config.Params) : Bool := (generatorPoly p Config.ecLen).all fun c => c != 0x00

end Sys2Proof.Machine
end

