-- ==== Sys2Proof/Machine/Gf256.lean ====
section
/-! DEFINITION. Arithmetic in GF(256) (40_gf256_tables.md R120 to R125). -/

namespace Sys2Proof.Machine

/-- Addition, which is also subtraction: exclusive or (R121). -/
def gfAdd (a b : Byte) : Byte := a ^^^ b

/-- The product by the log and antilog tables; the sum of the logarithms is reduced mod 255 (R124, R125). -/
def gfMul (p : Config.Params) (a b : Byte) : Byte :=
  if ha : a = 0x00 then 0x00
  else if hb : b = 0x00 then 0x00
  else expAt p ((logAt p a ha + logAt p b hb) % 255)

/-- The inverse of a non-zero element (R124). -/
def gfInv (p : Config.Params) (a : Byte) (nonzero : a ≠ 0x00) : Byte := expAt p ((255 - logAt p a nonzero) % 255)

/-- Evaluation of a polynomial, highest power first, by Horner's rule (42_reed_solomon.md R180). -/
def gfEval (p : Config.Params) (poly : List Byte) (x : Byte) : Byte :=
  poly.foldl (fun acc c => gfAdd (gfMul p acc x) c) 0x00

end Sys2Proof.Machine
end

