-- ==== Sys2Proof/Machine/ReedSolomon.lean ====
section
/-! DEFINITION. The Reed-Solomon encoder: the command RSENC, with the division it performs, the interleaving rule and
the equivalent shift-register form (42_reed_solomon.md R170 to R181), over the field and the generator that the parameters
name (00_scope.md R5). -/

namespace Sys2Proof.Machine

/-- The 16 terms of the generator scaled by a non-zero leading coefficient in the log domain: EXP[(GEN_LOG[j] + a) mod
255] with a = LOG[lead] (R173). -/
def scaledTerms (p : Config.Params) (lead : Byte) (nonzero : lead ≠ 0x00) : List Byte :=
  let a := logAt p lead nonzero
  (genLogTable p).map fun g => expAt p ((g + a) % 255)

/-- XOR terms into the first entries of a sequence; the entries after them stay. -/
def xorInto : List Byte → List Byte → List Byte
  | v :: vs, t :: ts => (v ^^^ t) :: xorInto vs ts
  | vs, _ => vs

/-- Iteration i of the division: a non-zero leading coefficient w[i] is cancelled by XORing the scaled generator into the
trailing window w[i..i+15]; a zero one changes nothing and takes no logarithm (R173, R174). -/
def divStep (p : Config.Params) (w : List Byte) (i : Nat) : List Byte :=
  let lead := w.getD i 0x00
  if h : lead = 0x00 then w
  else w.take i ++ xorInto (w.drop i) (scaledTerms p lead h)

/-- The working window after the first `n` iterations, started from the data codewords followed by 15 zeros (R170,
R172). -/
def divWindow (p : Config.Params) (d : List Byte) (n : Nat) : List Byte :=
  (List.range n).foldl (divStep p) (d ++ List.replicate Config.ecLen 0x00)

/-- `rs_ec`: the 15 error-correction codewords of 55 data codewords, the remainder the division leaves (R175, R179). -/
def rsEc (p : Config.Params) (d : List Byte) : List Byte := (divWindow p d Config.dataLen).drop Config.dataLen

/-- What RSENC does to the block: E_SEQ without valid data codewords; else CW[55..69] <- the remainder, CV <- 1,
ERR <- 0x00 (R170, R179). -/
def Block.encodeEc (p : Config.Params) (b : Block) : Block :=
  if b.dv then ({ b with cw := b.cw.setRange Config.dataLen (rsEc p b.dataWords), cv := true }).succeed
  else b.raiseError .seq

/-- RSENC (R170). -/
def execRsenc (s : State) : Host.Outcome State Fault Refusal := command (Block.encodeEc Config.params) s

/-! ### Interleaving (R176) -/

/-- Column `i` of some blocks: the i-th codeword of every block long enough to have one. -/
def blockColumn (blocks : List (List Byte)) (i : Nat) : List Byte := blocks.filterMap fun blk => blk[i]?

/-- The columns of some blocks, the first `n` of them, in order. -/
def blockColumns (blocks : List (List Byte)) (n : Nat) : List Byte := (List.range n).flatMap (blockColumn blocks)

/-- `interleave` for blocks of data and EC codewords: data columns, then EC columns (R176). -/
def interleave (blocks : List (List Byte × List Byte)) : List Byte :=
  let longest := fun (parts : List (List Byte)) => parts.foldl (fun n blk => max n blk.length) 0
  blockColumns (blocks.map Prod.fst) (longest (blocks.map Prod.fst))
    ++ blockColumns (blocks.map Prod.snd) (longest (blocks.map Prod.snd))

/-! ### The shift-register form (R181) -/

/-- One clock of the 15-byte register with the codeword `d`. -/
def lfsrStep (p : Config.Params) (r : List Byte) (d : Byte) : List Byte :=
  let fb := d ^^^ r.getD 0 0x00
  (List.range Config.ecLen).map fun k =>
    if k < Config.ecLen - 1 then r.getD (k + 1) 0x00 ^^^ gfMul p fb (genAt p (k + 1))
    else gfMul p fb (genAt p Config.ecLen)

/-- The register after the data codewords, started at zero. -/
def lfsr (p : Config.Params) (d : List Byte) : List Byte := d.foldl (lfsrStep p) (List.replicate Config.ecLen 0x00)

end Sys2Proof.Machine
end

