-- ==== Sys2Proof/Machine/System.lean ====
section
/-! DEFINITION. The system commands NOP, CLR and GCLR (44_system_commands.md R240 to R242). -/

namespace Sys2Proof.Machine

/-- NOP: ERR <- 0x00 and nothing else (R240). -/
def execNop (s : State) : Host.Outcome State Fault Refusal := command Block.succeed s

/-- What CLR does to the block: every component takes its reset value; in READY that leaves OPST as it is (R241, R40). -/
def Block.softReset (_ : Block) : Block := Block.reset

/-- CLR, the soft reset (R241). -/
def execClr (s : State) : Host.Outcome State Fault Refusal := command Block.softReset s

/-- What GCLR does to the block: all 841 cells Unknown, PV <- 0, ERR <- 0x00 (R242). -/
def Block.clearGrid (b : Block) : Block := ({ b with grid := Memory.clear, pv := false }).succeed

/-- GCLR (R242). -/
def execGclr (s : State) : Host.Outcome State Fault Refusal := command Block.clearGrid s

end Sys2Proof.Machine
end

