-- ==== Sys2Proof/Machine/Dispatch.lean ====
section
/-! DEFINITION. exec: one arm per command of 30_encoding.md R91, each a direct call of that command's meaning. -/

namespace Sys2Proof.Machine

def exec (i : Instr) (s : State) : Host.Outcome State Fault Refusal :=
  match i with
  | .nop => Sys2Proof.Machine.execNop s
  | .clr => Sys2Proof.Machine.execClr s
  | .bsenc => Sys2Proof.Machine.execBsenc s
  | .rsenc => Sys2Proof.Machine.execRsenc s
  | .zzinit => Sys2Proof.Machine.execZzinit s
  | .zznext => Sys2Proof.Machine.execZznext s
  | .gclr => Sys2Proof.Machine.execGclr s
  | .place => Sys2Proof.Machine.execPlace s

end Sys2Proof.Machine
end

