-- ==== Sys2Proof/Machine/Flags.lean ====
section
/-! DEFINITION. The flag registers the host reads, STATUS and ZFLAGS, and the split registers SPOS_L and SPOS_H: views
with no storage of their own (10_state.md R23, R29, R31; 20_memory.md R67). The flags themselves are fields of the block
and each command's rule says when it sets or clears one. -/

namespace Sys2Proof.Machine

/-- ERRF: ERR is not 0x00 (R23). -/
def Block.errf (b : Block) : Bool := b.err != 0x00

/-- FAULT: OPST is FAULTED (R23). -/
def Block.faultFlag (b : Block) : Bool :=
  match b.opst with
  | .ready => false
  | .faulted => true

/-- STATUS: bits 7:5 zero, then PV, CV, DV, FAULT, ERRF from bit 4 down to bit 0 (R23). -/
def Block.status (b : Block) : Byte :=
  0#3 ++ BitVec.ofBool b.pv ++ BitVec.ofBool b.cv ++ BitVec.ofBool b.dv ++ BitVec.ofBool b.faultFlag
    ++ BitVec.ofBool b.errf

/-- ZFLAGS: bits 7:4 zero, then COV, HNEXT, UP, ZV from bit 3 down to bit 0 (R29). -/
def Block.zflags (b : Block) : Byte :=
  0#4 ++ BitVec.ofBool b.cov ++ BitVec.ofBool b.cursor.hnext ++ BitVec.ofBool b.cursor.up
    ++ BitVec.ofBool b.cursor.zv

/-- A 5-bit register in bits 4:0 of a byte, bits 7:5 zero (R28, R30). -/
def coordByte (c : Coord) : Byte := 0#3 ++ c

/-- SPOS_L: SPOS[7:0] (R31). -/
def Block.sposLow (b : Block) : Byte := b.spos.extractLsb' 0 8

/-- SPOS_H: SPOS[9:8] in bits 1:0, bits 7:2 zero (R31). -/
def Block.sposHigh (b : Block) : Byte := 0#6 ++ b.spos.extractLsb' 8 2

end Sys2Proof.Machine
end

