-- ==== Sys2Proof/Machine/Bus.lean ====
section
/-! DEFINITION. The host bus: the address map, HostRead, HostWrite and Reset (20_memory.md R60 to R74; 10_state.md R22 to
R33, R41; 70_reset_and_hazards.md R280). -/

namespace Sys2Proof.Machine

/-- What an address of the GRID window selects: cell (x, y) with x in address bits 4:0 and y in bits 9:5, a hole when x
or y is above 28 (R69, R71). -/
def gridTarget (offset : Nat) : Target :=
  let x := offset % Config.gridStride
  let y := offset / Config.gridStride
  if x < Config.gridSize ∧ y < Config.gridSize then .cell x y else .reserved

/-- The address map (R62). -/
def target (addr : Addr) : Target :=
  let n := addr.toNat
  match n with
  | 0x000 => .cmd
  | 0x001 => .status
  | 0x002 => .err
  | 0x003 => .fcode
  | 0x004 => .plen
  | 0x005 => .pdata
  | 0x006 => .zx
  | 0x007 => .zy
  | 0x008 => .zflags
  | 0x009 => .cx
  | 0x00A => .cy
  | 0x00B => .sposL
  | 0x00C => .sposH
  | _ =>
    if 0x080 ≤ n ∧ n ≤ 0x0C5 then .cw (n - 0x080)
    else if 0x100 ≤ n ∧ n ≤ 0x13F then .pay (n - 0x100)
    else if 0x400 ≤ n ∧ n ≤ 0x7FF then gridTarget (n - 0x400)
    else .reserved

/-- HostRead(addr): the byte the address shows, in READY and FAULTED alike; a write-only or reserved address and a hole
read 0x00 (R61 to R63, R68, R71 to R74). -/
def hostRead (b : Block) (addr : Addr) : Byte :=
  match target addr with
  | .cmd => 0x00
  | .status => b.status
  | .err => b.err
  | .fcode => b.fcode
  | .plen => b.plen
  | .pdata => 0x00
  | .zx => coordByte b.cursor.zx
  | .zy => coordByte b.cursor.zy
  | .zflags => b.zflags
  | .cx => coordByte b.cx
  | .cy => coordByte b.cy
  | .sposL => b.sposLow
  | .sposH => b.sposHigh
  | .cw i => b.cw.get i
  | .pay i => b.pay.get i
  | .cell x y => (b.cell x y).code
  | .reserved => 0x00

/-- A host write of `v` to the address of cell (x, y) in READY (R70). -/
def Block.writeCell (x y : Nat) (v : Byte) (b : Block) : Block :=
  { b with grid := b.grid.set (cellIndex x y) (legalise v) }

/-- A write of a reserved code to CMD: E_BADCMD in READY, ignored in FAULTED (30_encoding.md R92, 60_exceptions.md
R268). -/
def badCommand (s : State) : Host.Outcome State Fault Refusal := command (Block.raiseError .badCmd) s

/-- A write of a byte to CMD: the command whose code it is executes (10_state.md R22). -/
def writeCmd (v : Byte) (s : State) : Host.Outcome State Fault Refusal :=
  match decode v with
  | .ok i => exec i s
  | .error _ => badCommand s

/-- HostWrite(addr, v): CMD, PDATA and the cells act, in READY only; every other write is ignored (R62, R63, R68, R70,
R74). -/
def hostWrite (addr : Addr) (v : Byte) (s : State) : Host.Outcome State Fault Refusal :=
  match target addr with
  | .cmd => writeCmd v s
  | .pdata => command (Block.push v) s
  | .cell x y => command (Block.writeCell x y v) s
  | .status | .err | .fcode | .plen | .zx | .zy | .zflags | .cx | .cy | .sposL | .sposH | .cw _ | .pay _
  | .reserved => .next s

/-- One host transaction, complete with all its effects (R61, R75). -/
def transact (t : Transaction) (s : State) : Host.Outcome State Fault Refusal :=
  match t with
  | .read addr => .next { s with replies := hostRead s.block addr :: s.replies }
  | .write addr v => hostWrite addr v s
  | .reset => .next (s.mapBlock Block.hardReset)

/-- One step: the host's next transaction. When the host issues none the block stays as it is: it never changes state on
its own (00_scope.md R6; 44_system_commands.md R243; DESIGN CHOICE, log entry 1). -/
def stepTransaction (s : State) : Host.Outcome State Fault Refusal :=
  match s.script with
  | [] => .next s
  | t :: rest => transact t { s with script := rest }

/-- The host about to write the byte `v` to CMD. -/
def State.issueCommand (v : Byte) (s : State) : State := { s with script := .write 0x000 v :: s.script }

end Sys2Proof.Machine
end

