-- ==== Sys2Proof/Machine/Step.lean ====
section
/-! DEFINITION. The step, one host transaction (44_system_commands.md R243), and where the step takes its next command
from: the head of the host's script. -/

namespace Sys2Proof.Machine

/-- One step of the machine. -/
def step (s : State) : Host.Outcome State Fault Refusal := stepTransaction s

/-- The state with a command placed where `step` takes its next one: the host is about to write it to CMD. -/
def State.withFetchWord (s : State) (nbits w : Nat) : State := s.issueCommand (commandByte nbits w)

end Sys2Proof.Machine
end

