-- ==== Sys2Proof/Machine/Script.lean ====
section
/-! DEFINITION. The host-script notation and its pseudo-instructions, each expanded to the host's transactions
(30_encoding.md R99, R100). -/

namespace Sys2Proof.Machine

/-- The pseudo-instructions of R100. -/
inductive Pseudo where
  /-- a command's mnemonic -/
  | cmd (i : Instr)
  /-- PUSH v -/
  | push (v : Byte)
  /-- PUSHS text, the text as its bytes -/
  | pushs (text : List Byte)
  /-- GSET x, y, c -/
  | gset (x y : Nat) (c : Byte)
  /-- GGET x, y -/
  | gget (x y : Nat)
  /-- RDCW i -/
  | rdcw (i : Nat)
deriving DecidableEq, Repr

/-- The bus address of cell (x, y): 0x400 + 32*y + x (20_memory.md R69). -/
def cellAddr (x y : Nat) : Addr := BitVec.ofNat 12 (0x400 + cellIndex x y)

/-- The transactions a pseudo-instruction stands for (R100). -/
def expand : Pseudo → List Transaction
  | .cmd i => [.write 0x000 (encode i)]
  | .push v => [.write 0x005 v]
  | .pushs text => text.map fun v => .write 0x005 v
  | .gset x y c => [.write (cellAddr x y) c]
  | .gget x y => [.read (cellAddr x y)]
  | .rdcw i => [.read (BitVec.ofNat 12 (0x080 + i))]

/-- A script of pseudo-instructions as the transactions it is executed as, top to bottom (R99). -/
def assemble (lines : List Pseudo) : List Transaction := lines.flatMap expand

end Sys2Proof.Machine
end

