-- ==== Sys2Proof/WellFormed.lean ====
section
/-! DEFINITION. The checks on what is written outside the machine: the command byte (30_encoding.md R91, R92) and the
parameters (00_scope.md R5). A command carries no operand (R93), so every term of Instr is well formed. -/

namespace Sys2Proof

/-- Every command is well formed: none carries an immediate, a register number or an address (R93). -/
def Instr.wellFormed : Instr → Bool
  | .nop => true
  | .clr => true
  | .bsenc => true
  | .rsenc => true
  | .zzinit => true
  | .zznext => true
  | .gclr => true
  | .place => true

/-- A command byte is well formed when it is one of the eight codes of R91; the other 248 are reserved (R92). -/
def codeWellFormed (code : Byte) : Bool :=
  [0x00#8, 0x01#8, 0x10#8, 0x20#8, 0x30#8, 0x31#8, 0x40#8, 0x41#8].contains code

/-- The widths are admissible: REM_BITS in 0..7 and CCW in 6..12 (R5, R144). -/
def Config.Params.widthsOk (p : Config.Params) : Bool :=
  decide (p.remBits ≤ 7) && decide (6 ≤ p.ccw) && decide (p.ccw ≤ 12)

/-- The field parameters name a field and a generator of which 40_gf256_tables.md R120, R123, R126 and R127 hold: a
polynomial of degree 8, a primitive element, no zero coefficient. -/
def Config.Params.fieldOk (p : Config.Params) : Bool :=
  Machine.primOk p && Machine.alphaPrimitive p && Machine.genNonzero p

/-- The parameters are admissible. -/
def Config.Params.wellFormed (p : Config.Params) : Bool := p.widthsOk && p.fieldOk

end Sys2Proof
end

