-- ==== Sys2Proof/Safety.lean ====
section
/-! DEFINITION. What counts as a safe run and the vocabulary of the claims: success, the reset values written out, the
invariants of the block, and the cells PLACE has to fill. -/

namespace Sys2Proof.Machine

/-- A block that may count as a successful end of a host script: not FAULTED, and the last command succeeded
(60_exceptions.md R256; 10_state.md R24). -/
def Block.succeeded (b : Block) : Bool := !b.faultFlag && !b.errf

/-- Every component at the value of the table of 10_state.md R40. -/
def Block.AtReset (b : Block) : Prop :=
  b.opst = .ready ∧ b.err = 0x00 ∧ b.fcode = 0x00 ∧ b.dv = false ∧ b.cv = false ∧ b.pv = false ∧ b.plen = 0 ∧
  (∀ i, i < 64 → b.pay.get i = 0x00) ∧ (∀ i, i < 70 → b.cw.get i = 0x00) ∧
  b.cursor.zx = 0 ∧ b.cursor.zy = 0 ∧ b.cursor.zv = false ∧ b.cursor.up = false ∧ b.cursor.hnext = false ∧
  b.cov = false ∧ b.cx = 0 ∧ b.cy = 0 ∧ b.spos = 0 ∧
  (∀ x y, x < 29 → y < 29 → b.cell x y = .unknown)

/-! ### The invariants -/

/-- Every entry's index is below `n`. -/
def Memory.below (n : Nat) (m : Memory) : Bool := m.all fun e => decide (e.1 < n)

/-- The six legal cell codes (30_encoding.md R94). -/
def legalCode (c : Byte) : Bool := [0x00#8, 0x02#8, 0x04#8, 0x05#8, 0x06#8, 0x07#8].contains c

/-- Every entry is a cell of the grid with a legal code. -/
def Memory.cellsOnly (m : Memory) : Bool :=
  m.all fun e => decide (e.1 % 32 < 29) && decide (e.1 / 32 < 29) && legalCode e.2

/-- The three memories are in canonical form and list only what exists (10_state.md R32 to R34). -/
def Block.memoriesOk (b : Block) : Bool :=
  b.pay.wf && b.pay.below 64 && b.cw.wf && b.cw.below 70 && b.grid.wf && b.grid.cellsOnly

/-- OPST, ERR and FCODE agree and hold legal values (10_state.md R21, R24, R25). -/
def Block.outcomeOk (b : Block) : Bool :=
  match b.opst with
  | .ready => b.fcode == 0x00 && [0x00#8, 0x01#8, 0x04#8, 0x05#8].contains b.err
  | .faulted => b.err == 0xFF && [0x01#8, 0x02#8, 0x03#8].contains b.fcode

/-- The cursor is the one reset leaves or one of the traversal (10_state.md R28; 43_zigzag_placement.md R210), and the
last coordinate is one of the grid, one of the traversal while COV is 1 (R30). -/
def Block.CursorOk (b : Block) : Prop :=
  (b.cursor = Block.reset.cursor ∨ ∃ n, n ≤ 812 ∧ b.cursor = cursorAt n) ∧
  b.cx.toNat ≤ 28 ∧ b.cy.toNat ≤ 28 ∧
  (b.cov = true → ∃ n, n < 812 ∧ (b.cx.toNat, b.cy.toNat) = coordAt n)

/-- The invariant of the block: memories, outcome registers, cursor, SPOS in 0..567 (10_state.md R31), and CV only with
DV (R23). -/
structure Block.Inv (b : Block) : Prop where
  memories : b.memoriesOk = true
  outcome : b.outcomeOk = true
  cursor : b.CursorOk
  spos : b.spos.toNat ≤ 567
  flags : b.cv = true → b.dv = true

/-- What DV and CV say of the codeword buffer (10_state.md R23): with DV the data codewords are the frame of some
payload of at most 53 bytes, with CV the error-correction codewords are computed from the present data codewords. -/
structure Block.CodewordsOk (b : Block) : Prop where
  data : b.dv = true → ∃ pay : List Byte, pay.length ≤ 53 ∧ ∀ c, c < 55 → b.cw.get c = frameByte pay c
  ec : b.cv = true → b.ecWords = rsEc Config.params b.dataWords

/-! ### What PLACE has to fill -/

/-- The non-function cells of the grid in the order of the traversal (43_zigzag_placement.md R210, R212). -/
def Block.openCells (b : Block) : List (Nat × Nat) :=
  ((List.range 812).map coordAt).filter fun c => !(b.cell c.1 c.2).isFun

/-- The k-th open cell exists and is Unknown, for every k below `m`. -/
def Block.UnknownBelow (b : Block) (m : Nat) : Prop :=
  ∀ k c, k < m → b.openCells[k]? = some c → b.cell c.1 c.2 = .unknown

/-- The grid `g` is the block's grid with the first `m` stream bits in the first `m` open cells and every other byte as
before (R213, R214). -/
def Block.Filled (b : Block) (m : Nat) (g : Memory) : Prop :=
  (∀ k c, k < m → b.openCells[k]? = some c →
    Module.ofCode (g.get (cellIndex c.1 c.2)) = .data (b.streamBit k)) ∧
  (∀ a, (∀ k c, k < m → b.openCells[k]? = some c → a ≠ cellIndex c.1 c.2) → g.get a = b.grid.get a)

/-! ### Who the host addresses -/

/-- The reserved ranges of the address map (20_memory.md R62). -/
def reservedAddr (n : Nat) : Prop :=
  (0x00D ≤ n ∧ n ≤ 0x07F) ∨ (0x0C6 ≤ n ∧ n ≤ 0x0FF) ∨ (0x140 ≤ n ∧ n ≤ 0x3FF) ∨ (0x800 ≤ n ∧ n ≤ 0xFFF)

/-- The read-only addresses of the map (R62). -/
def readOnlyAddr (n : Nat) : Prop :=
  (0x001 ≤ n ∧ n ≤ 0x004) ∨ (0x006 ≤ n ∧ n ≤ 0x00C) ∨ (0x080 ≤ n ∧ n ≤ 0x0C5) ∨ (0x100 ≤ n ∧ n ≤ 0x13F)

/-- The host's next transaction writes the byte `v` to CMD and the block is READY, so the write acts (10_state.md
R22). -/
def State.Issues (s : State) (v : Byte) : Prop :=
  s.block.opst = .ready ∧ ∃ rest, s.script = .write 0x000 v :: rest

/-- The host's next transaction is a hardware reset. -/
def State.Resets (s : State) : Prop := ∃ rest, s.script = .reset :: rest

end Sys2Proof.Machine
end

