-- ==== Sys2Proof/Certificates/Slice0/Obligations.lean ====
section
/-! DEFINITION. The statements for the provers. Each docstring names the rules of spec/ it formalises; OBLIGATIONS.json
lists them with their tiers. -/

open Sys2Proof Sys2Proof.Machine

/-! ### Encoding, decoding and the step -/

/-- R91: each of the eight codes, written out from the command map, decodes to its command. -/
def Obligations.CommandCodesDecode : Prop :=
  decode 0x00#8 = .ok .nop ∧ decode 0x01#8 = .ok .clr ∧ decode 0x10#8 = .ok .bsenc ∧ decode 0x20#8 = .ok .rsenc ∧
  decode 0x30#8 = .ok .zzinit ∧ decode 0x31#8 = .ok .zznext ∧ decode 0x40#8 = .ok .gclr ∧ decode 0x41#8 = .ok .place

/-- R90 to R92: decoding inverts encoding both ways, and every byte without a command is rejected by name. -/
def Obligations.DecodeEncodeAgree : Prop :=
  (∀ i, decode (encode i) = .ok i) ∧ (∀ b i, decode b = .ok i → encode i = b) ∧
  (∀ b, b ∉ [0x00#8, 0x01#8, 0x10#8, 0x20#8, 0x30#8, 0x31#8, 0x40#8, 0x41#8] →
    decode b = .error (.reservedCode b))

/-- R22, R243: a write to CMD of a byte that decodes to a command is that command, on the state whose script has moved
past the write. -/
def Obligations.StepRunsDecodedCommand : Prop :=
  ∀ (s : State) (v : Byte) (rest : List Transaction) (i : Instr),
    s.script = .write 0x000 v :: rest → decode v = .ok i → step s = exec i { s with script := rest }

/-- The word placed for the step is the command the very next step runs, by R22. Where the next command stands is the
model's choice: withFetchWord puts it at the head of the host's script (log entry 1) and, like decodeTableWord, takes the
low byte of the word (log entry 12). -/
def Obligations.PlacedWordRunsNext : Prop :=
  ∀ (s : State) (i : Instr), decodeTableWord 8 (encode i).toNat = some i ∧
    step (s.withFetchWord 8 (encode i).toNat) = exec i s

/-- R290, R6: every step answers a next state, in every state, and with no transaction from the host the machine stays
as it is (log entry 1: that an idle step is a next state is the model's). -/
def Obligations.EveryStepAnswers : Prop :=
  ∀ s : State, ∃ t, step s = .next t ∧ (s.script = [] → t = s) ∧
    (∀ i, s.block.opst = .ready → ∃ u, exec i s = .next u ∧ u.script = s.script ∧ u.replies = s.replies)

/-- R92, R268: a reserved code written in READY sets ERR to 0x05 and changes nothing else. -/
def Obligations.ReservedCodeRaisesBadCmd : Prop :=
  ∀ (s : State) (v : Byte) (rest : List Transaction), s.script = .write 0x000 v :: rest → s.block.opst = .ready →
    v ∉ [0x00#8, 0x01#8, 0x10#8, 0x20#8, 0x30#8, 0x31#8, 0x40#8, 0x41#8] →
    step s = .next { s with script := rest, block := { s.block with err := 0x05 } }

/-! ### The host bus -/

/-- R61, R68: a host read answers one byte and changes no state of the block, in READY and FAULTED alike. -/
def Obligations.HostReadLeavesBlock : Prop :=
  ∀ (s : State) (a : Addr) (rest : List Transaction), s.script = .read a :: rest →
    step s = .next { s with script := rest, replies := hostRead s.block a :: s.replies }

/-- R62, R28, R30, R31: what each register address reads as, in every state. -/
def Obligations.RegistersReadAtTheirAddresses : Prop :=
  ∀ b : Block,
    hostRead b 0x000 = 0x00 ∧ hostRead b 0x002 = b.err ∧ hostRead b 0x003 = b.fcode ∧ hostRead b 0x004 = b.plen ∧
    hostRead b 0x005 = 0x00 ∧
    (hostRead b 0x006).toNat = b.cursor.zx.toNat ∧ (hostRead b 0x007).toNat = b.cursor.zy.toNat ∧
    (hostRead b 0x009).toNat = b.cx.toNat ∧ (hostRead b 0x00A).toNat = b.cy.toNat ∧
    (hostRead b 0x00B).toNat = b.spos.toNat % 256 ∧ (hostRead b 0x00C).toNat = b.spos.toNat / 256

/-- R23, R29: every bit of STATUS and of ZFLAGS, as read at 0x001 and 0x008. -/
def Obligations.FlagRegistersBitByBit : Prop :=
  ∀ b : Block,
    ((hostRead b 0x001).getLsbD 0 = true ↔ b.err ≠ 0x00) ∧ ((hostRead b 0x001).getLsbD 1 = true ↔ b.opst = .faulted) ∧
    (hostRead b 0x001).getLsbD 2 = b.dv ∧ (hostRead b 0x001).getLsbD 3 = b.cv ∧ (hostRead b 0x001).getLsbD 4 = b.pv ∧
    (hostRead b 0x001).toNat < 32 ∧
    (hostRead b 0x008).getLsbD 0 = b.cursor.zv ∧ (hostRead b 0x008).getLsbD 1 = b.cursor.up ∧
    (hostRead b 0x008).getLsbD 2 = b.cursor.hnext ∧ (hostRead b 0x008).getLsbD 3 = b.cov ∧
    (hostRead b 0x008).toNat < 16

/-- R69, R72, R73: the three windows. -/
def Obligations.WindowsShowTheirMemories : Prop :=
  ∀ b : Block,
    (∀ i, i < 70 → hostRead b (BitVec.ofNat 12 (0x080 + i)) = b.cw.get i) ∧
    (∀ i, i < 64 → hostRead b (BitVec.ofNat 12 (0x100 + i)) = b.pay.get i) ∧
    (∀ x y, x < 29 → y < 29 →
      hostRead b (BitVec.ofNat 12 (0x400 + 32 * y + x)) = (b.cell x y).code ∧
      Module.ofCode (hostRead b (BitVec.ofNat 12 (0x400 + 32 * y + x))) = b.cell x y)

/-- R63: a reserved address reads 0x00, so does a write-only one, and a write to a reserved or read-only address is
ignored: nothing of the block changes, ERR included. -/
def Obligations.UnassignedAddressesAreInert : Prop :=
  (∀ (b : Block) (a : Addr), reservedAddr a.toNat ∨ a = 0x000 ∨ a = 0x005 → hostRead b a = 0x00) ∧
  (∀ (s : State) (a : Addr) (v : Byte) (rest : List Transaction), s.script = .write a v :: rest →
    reservedAddr a.toNat ∨ readOnlyAddr a.toNat → step s = .next { s with script := rest })

/-- R71: the holes of the GRID window read 0x00 and ignore writes, and there are 183 of them. -/
def Obligations.GridWindowHolesAreInert : Prop :=
  (∀ (b : Block) (x y : Nat), x < 32 → y < 32 → 28 < x ∨ 28 < y →
    hostRead b (BitVec.ofNat 12 (0x400 + 32 * y + x)) = 0x00) ∧
  (∀ (s : State) (x y : Nat) (v : Byte) (rest : List Transaction), x < 32 → y < 32 → 28 < x ∨ 28 < y →
    s.script = .write (BitVec.ofNat 12 (0x400 + 32 * y + x)) v :: rest → step s = .next { s with script := rest }) ∧
  ((List.range 1024).filter fun k => decide (28 < k % 32 ∨ 28 < k / 32)).length = 183

/-- R74: in FAULTED every host write to any address is ignored and no command executes, every read answers the present
state as in READY, and only a reset leaves FAULTED. -/
def Obligations.FaultedBlockIgnoresWrites : Prop :=
  ∀ s : State, s.block.opst = .faulted →
    (∀ i, exec i s = .next s) ∧
    (∀ a v rest, s.script = .write a v :: rest → step s = .next { s with script := rest }) ∧
    (∀ a rest, s.script = .read a :: rest →
      step s = .next { s with script := rest, replies := hostRead s.block a :: s.replies } ∧
      (a ≠ 0x001 → hostRead s.block a = hostRead { s.block with opst := .ready } a)) ∧
    (∀ t, step s = .next t → t.block.opst = .ready → ∃ rest, s.script = .reset :: rest)

/-- R70: a host write of v to a cell in READY stores the legalised code and changes nothing else. -/
def Obligations.CellWriteIsLegalised : Prop :=
  ∀ (s : State) (x y : Nat) (v : Byte) (rest : List Transaction), s.block.opst = .ready → s.block.grid.wf = true →
    x < 29 → y < 29 → s.script = .write (BitVec.ofNat 12 (0x400 + 32 * y + x)) v :: rest →
    ∃ g, step s = .next { s with script := rest, block := { s.block with grid := g } } ∧
      (∀ k, k ≠ 32 * y + x → g.get k = s.block.grid.get k) ∧
      (v.getLsbD 2 = true → g.get (32 * y + x) = v &&& 0x07) ∧
      (v.getLsbD 2 = false → g.get (32 * y + x) = v &&& 0x02) ∧
      legalCode (g.get (32 * y + x)) = true

/-- R27: a push stores the byte at PAY[PLEN] if PLEN is below 64 and counts it, saturating at 255; it changes nothing
else, and 0x005 reads 0x00. -/
def Obligations.PayloadPushAppends : Prop :=
  ∀ (s : State) (v : Byte) (rest : List Transaction), s.script = .write 0x005 v :: rest →
    hostRead s.block 0x005 = 0x00 ∧
    (s.block.opst = .faulted → step s = .next { s with script := rest }) ∧
    (s.block.opst = .ready → s.block.pay.wf = true →
      ∃ m n, step s = .next { s with script := rest, block := { s.block with pay := m, plen := n } } ∧
        n.toNat = min (s.block.plen.toNat + 1) 255 ∧
        (s.block.plen.toNat < 64 → m.get s.block.plen.toNat = v) ∧
        (∀ k, k ≠ s.block.plen.toNat ∨ 64 ≤ k → m.get k = s.block.pay.get k))

/-- R40, R241: after a hardware reset in any state, and after CLR in READY, every component has its reset value and
every address reads 0x00; CLR in FAULTED is ignored. -/
def Obligations.ResetAndClearGiveResetValues : Prop :=
  (∀ (s : State) (rest : List Transaction), s.script = .reset :: rest →
    ∃ b, step s = .next { s with script := rest, block := b } ∧ b.AtReset ∧ ∀ a, hostRead b a = 0x00) ∧
  (∀ s : State, s.block.opst = .ready →
    ∃ b, exec .clr s = .next { s with block := b } ∧ b.AtReset ∧ ∀ a, hostRead b a = 0x00) ∧
  (∀ s : State, s.block.opst = .faulted → exec .clr s = .next s)

/-- R40, R281: the machine starts at the reset values; the empty script and replies are the model's own (log entry 1). -/
def Obligations.MachineStartsAtResetValues : Prop :=
  State.reset.block.AtReset ∧ State.reset.script = [] ∧ State.reset.replies = []

/-- R100: the pseudo-instructions expand to the transactions the rule gives. -/
def Obligations.PseudoInstructionsExpand : Prop :=
  expand (.cmd .nop) = [.write 0x000 0x00] ∧ expand (.cmd .clr) = [.write 0x000 0x01] ∧
  expand (.cmd .bsenc) = [.write 0x000 0x10] ∧ expand (.cmd .rsenc) = [.write 0x000 0x20] ∧
  expand (.cmd .zzinit) = [.write 0x000 0x30] ∧ expand (.cmd .zznext) = [.write 0x000 0x31] ∧
  expand (.cmd .gclr) = [.write 0x000 0x40] ∧ expand (.cmd .place) = [.write 0x000 0x41] ∧
  (∀ v, expand (.push v) = [.write 0x005 v]) ∧
  (∀ l, expand (.pushs l) = l.map fun v => .write 0x005 v) ∧
  (∀ x y c, expand (.gset x y c) = [.write (BitVec.ofNat 12 (0x400 + 32 * y + x)) c]) ∧
  (∀ x y, expand (.gget x y) = [.read (BitVec.ofNat 12 (0x400 + 32 * y + x))]) ∧
  (∀ i, expand (.rdcw i) = [.read (BitVec.ofNat 12 (0x080 + i))])

/-! ### The system commands -/

/-- R240: NOP clears ERR and changes nothing else. -/
def Obligations.NopClearsErrOnly : Prop :=
  ∀ s : State, s.block.opst = .ready → exec .nop s = .next { s with block := { s.block with err := 0x00 } }

/-- R242: GCLR makes every cell Unknown, clears PV and ERR, and touches nothing else. -/
def Obligations.GclrClearsGridAndPv : Prop :=
  ∀ s : State, s.block.opst = .ready →
    ∃ g, exec .gclr s = .next { s with block := { s.block with grid := g, pv := false, err := 0x00 } } ∧
      ∀ x y, x < 29 → y < 29 →
        ({ s.block with grid := g } : Block).cell x y = .unknown ∧
        hostRead { s.block with grid := g } (BitVec.ofNat 12 (0x400 + 32 * y + x)) = 0x00

/-! ### The bit-stream encoder -/

/-- R142, R151, R153: BSENC on a payload of at most 53 bytes stores its frame, in closed form, sets DV, clears CV and
ERR, and leaves CW[55..69] and everything else. -/
def Obligations.BsencStoresTheFrame : Prop :=
  ∀ s : State, s.block.opst = .ready → s.block.plen.toNat ≤ 53 → s.block.cw.wf = true →
    ∃ m, exec .bsenc s = .next { s with block := { s.block with cw := m, dv := true, cv := false, err := 0x00 } } ∧
      (∀ c, c < 55 → m.get c = frameByte s.block.payload c) ∧ (∀ c, 55 ≤ c → m.get c = s.block.cw.get c)

/-- R146, R264: BSENC with PLEN of 54 or more sets ERR to 0x01 and changes nothing else. -/
def Obligations.BsencRefusesLongPayload : Prop :=
  ∀ s : State, s.block.opst = .ready → 54 ≤ s.block.plen.toNat →
    exec .bsenc s = .next { s with block := { s.block with err := 0x01 } }

/-- R146 to R150: for every admissible parameter set, the frame of a payload that fits is exactly 440 bits. -/
def Obligations.FrameFillsCapacityExactly : Prop :=
  ∀ (p : Config.Params) (pay : List Byte), p.widthsOk = true → 4 + p.ccw + 8 * pay.length ≤ 440 →
    (frameBits p pay).length = 440

/-- R143 to R145, R151: the frame begins with the mode indicator, the count and the payload, and packing puts stream bit
8c+q in bit 7-q of codeword c. -/
def Obligations.PackedFrameKeepsEveryBit : Prop :=
  ∀ pay : List Byte, pay.length ≤ 53 →
    (frameBits Config.params pay).take (12 + 8 * pay.length) =
      bitsMsb 0b0100 4 ++ bitsMsb pay.length 8 ++ pay.flatMap (fun v => bitsMsb v.toNat 8) ∧
    ∀ c q, c < 55 → q < 8 →
      ((packBits (frameBits Config.params pay)).getD c 0x00).getLsbD (7 - q) =
        (frameBits Config.params pay).getD (8 * c + q) false

/-! ### The Reed-Solomon encoder -/

/-- R122, R123: EXP by its recurrence, EXP and LOG inverse to each other, LOG in 0..254. -/
def Obligations.ExpAndLogTables : Prop :=
  expAt Config.params 0 = 0x01 ∧ expAt Config.params 255 = 0x01 ∧
  (∀ e, e < 255 → (expAt Config.params (e + 1)).toNat =
    if 2 * (expAt Config.params e).toNat < 256 then 2 * (expAt Config.params e).toNat
    else 2 * (expAt Config.params e).toNat ^^^ 0x11D) ∧
  (∀ v (h : v ≠ 0x00#8), logAt Config.params v h < 255 ∧ expAt Config.params (logAt Config.params v h) = v)

/-- R126, R127: GEN is monic of degree 15 with the roots alpha^0..alpha^14 and no zero coefficient, and GEN_LOG is its
logarithm. -/
def Obligations.GeneratorTables : Prop :=
  genTable Config.params = generatorPoly Config.params 15 ∧ (genTable Config.params).length = 16 ∧
  genAt Config.params 0 = 0x01 ∧
  (∀ i, i < 15 → gfEval Config.params (genTable Config.params) (expAt Config.params i) = 0x00) ∧
  (∀ j, j < 16 → genAt Config.params j ≠ 0x00 ∧
    ∀ h : genAt Config.params j ≠ 0x00, genLogAt Config.params j = logAt Config.params (genAt Config.params j) h)

/-- R124: the product by tables is the polynomial product by shift and add, for all pairs. -/
def Obligations.TableProductIsShiftAndAdd : Prop := ∀ a b : Byte, gfMul Config.params a b = gfMulShift 0x11D a b

/-- R121, R124: multiplication is commutative and associative, distributes over exclusive or, has identity 0x01, and
every non-zero element has the inverse the rule gives. -/
def Obligations.FieldLawsHold : Prop :=
  (∀ a b, gfMul Config.params a b = gfMul Config.params b a) ∧
  (∀ a b c, gfMul Config.params (gfMul Config.params a b) c = gfMul Config.params a (gfMul Config.params b c)) ∧
  (∀ a b c, gfMul Config.params a (b ^^^ c) = gfMul Config.params a b ^^^ gfMul Config.params a c) ∧
  (∀ a, gfMul Config.params 0x01 a = a) ∧
  (∀ a (h : a ≠ 0x00#8), gfMul Config.params a (gfInv Config.params a h) = 0x01)

/-- R170, R179: RSENC with valid data codewords stores the remainder in CW[55..69], sets CV, clears ERR, and leaves
CW[0..54] and everything else. -/
def Obligations.RsencStoresRemainder : Prop :=
  ∀ s : State, s.block.opst = .ready → s.block.dv = true → s.block.cw.wf = true →
    ∃ m, exec .rsenc s = .next { s with block := { s.block with cw := m, cv := true, err := 0x00 } } ∧
      (∀ k, k < 15 → m.get (55 + k) = (rsEc Config.params s.block.dataWords).getD k 0x00) ∧
      (∀ c, c < 55 ∨ 70 ≤ c → m.get c = s.block.cw.get c)

/-- R267: RSENC without data codewords and PLACE without error-correction codewords set ERR to 0x04 and change nothing
else. -/
def Obligations.OutOfOrderCommandsRaiseSeq : Prop :=
  ∀ s : State, s.block.opst = .ready →
    (s.block.dv = false → exec .rsenc s = .next { s with block := { s.block with err := 0x04 } }) ∧
    (s.block.cv = false → exec .place s = .next { s with block := { s.block with err := 0x04 } })

/-- R173, R175: after n iterations the first n entries of the window are 0x00, and the window keeps its 70 bytes. -/
def Obligations.DivisionCancelsLeadingEntries : Prop :=
  ∀ (d : List Byte) (n : Nat), d.length = 55 → n ≤ 55 →
    (divWindow Config.params d n).length = 70 ∧ ∀ i, i < n → (divWindow Config.params d n).getD i 0x00 = 0x00

/-- The division leaves what the 15-byte shift register leaves: R181, which the spec derives from R173 and R175. -/
def Obligations.DivisionEqualsShiftRegister : Prop :=
  ∀ d : List Byte, d.length = 55 → rsEc Config.params d = lfsr Config.params d

/-- The 70 codewords evaluate to zero at alpha^0..alpha^14: R180 (c), which the spec derives from R172 to R175, R124 and
R126. -/
def Obligations.CodewordVanishesAtGeneratorRoots : Prop :=
  ∀ (d : List Byte) (i : Nat), d.length = 55 → i < 15 →
    gfEval Config.params (d ++ rsEc Config.params d) (expAt Config.params i) = 0x00

/-- rs_ec is linear over exclusive or, maps zeros to zeros, and maps the message with only the last codeword 0x01 to
GEN[1..15]: R182, which the spec derives from R121, R124 and R173. -/
def Obligations.RemainderIsLinear : Prop :=
  (∀ d d' : List Byte, d.length = 55 → d'.length = 55 →
    rsEc Config.params (List.zipWith (· ^^^ ·) d d') =
      List.zipWith (· ^^^ ·) (rsEc Config.params d) (rsEc Config.params d')) ∧
  rsEc Config.params (List.replicate 55 0x00) = List.replicate 15 0x00 ∧
  rsEc Config.params (List.replicate 54 0x00 ++ [0x01]) =
    (List.range 15).map (fun k => genAt Config.params (k + 1)) ∧
  (List.range 15).map (fun k => genAt Config.params (k + 1)) =
    [0x1D, 0xC4, 0x6F, 0xA3, 0x70, 0x4A, 0x0A, 0x69, 0x69, 0x8B, 0x84, 0x97, 0x20, 0x86, 0x1A]

/-- The field parameters reach RSENC. For all parameters EXP and GEN are those their rules generate; for admissible ones
LOG is the inverse of EXP, GEN_LOG is the logarithm of GEN, which has no zero coefficient, and RSENC's change of a block
with valid data codewords stores the remainder that the 15-byte shift register over that GEN leaves (R5, R122, R123,
R126, R127, R173, R175, R179, R181). That parameters other than the defaults can be given, and which are admissible, is
the model's choice that R5 allows; exec gives RSENC the defaults (log entries 2, 8). -/
def Obligations.RsencFollowsTheFieldParameters : Prop :=
  (∀ (p : Config.Params) (e : Nat), e < 256 → expAt p e = gfPow p e) ∧
  (∀ p : Config.Params, genTable p = generatorPoly p 15) ∧
  (∀ p : Config.Params, p.fieldOk = true →
    (∀ (v : Byte) (h : v ≠ 0x00#8), logAt p v h < 255 ∧ expAt p (logAt p v h) = v) ∧
    (∀ e, e < 255 → ∃ h : expAt p e ≠ 0x00#8, logAt p (expAt p e) h = e) ∧
    (∀ j, j < 16 → ∃ h : genAt p j ≠ 0x00#8, genLogAt p j = logAt p (genAt p j) h) ∧
    (∀ b : Block, b.dv = true → b.cw.wf = true →
      ∃ m, b.encodeEc p = { b with cw := m, cv := true, err := 0x00 } ∧
        (∀ k, k < 15 → m.get (55 + k) = (lfsr p b.dataWords).getD k 0x00) ∧
        (∀ c, c < 55 ∨ 70 ≤ c → m.get c = b.cw.get c)))

/-- R176: interleaving takes index i of each block in turn, data first and then EC; with one block it is the
concatenation. -/
def Obligations.InterleavingIsColumnMajor : Prop :=
  (∀ d e : List Byte, interleave [(d, e)] = d ++ e) ∧
  (∀ (blocks : List (List Byte × List Byte)) (n m : Nat),
    (∀ blk ∈ blocks, blk.1.length = n ∧ blk.2.length = m) →
    ∀ b, b < blocks.length →
      (∀ i, i < n → (interleave blocks)[i * blocks.length + b]? = (blocks[b]?).bind fun blk => blk.1[i]?) ∧
      (∀ i, i < m → (interleave blocks)[n * blocks.length + i * blocks.length + b]? =
        (blocks[b]?).bind fun blk => blk.2[i]?))

/-- R36, R178: STR has 567 bits, the codewords most significant bit first and then seven zeros. -/
def Obligations.FinalStreamIsCodewordsThenZeros : Prop :=
  ∀ b : Block, (b.stream Config.params).length = 567 ∧
    (∀ i, i < 560 → (b.stream Config.params).getD i true = (b.cw.get (i / 8)).getLsbD (7 - i % 8)) ∧
    (∀ i, 560 ≤ i → i < 567 → (b.stream Config.params).getD i true = false)

/-! ### The zig-zag sequencer -/

/-- R202: ZZINIT makes a fresh cursor, leaves CX and CY, and ZFLAGS then reads 0x07. -/
def Obligations.ZzinitMakesFreshCursor : Prop :=
  ∀ s : State, s.block.opst = .ready →
    ∃ b, exec .zzinit s = .next { s with block := b } ∧
      b = { s.block with
        cursor := { zx := 28, zy := 28, up := true, hnext := true, zv := true }, cov := false, err := 0x00 } ∧
      hostRead b 0x006 = 0x1C ∧ hostRead b 0x007 = 0x1C ∧ hostRead b 0x008 = 0x07

/-- R203: the column-left step in its three cases; ZY, UP and HNEXT stay, and at column 0 only ZV changes. -/
def Obligations.ColumnLeftStep : Prop :=
  ∀ c : Cursor,
    (c.zx = 0 → c.colLeft = { c with zv := false }) ∧ (c.zx = 7 → c.colLeft = { c with zx := 5 }) ∧
    (c.zx ≠ 0 → c.zx ≠ 7 → c.colLeft = { c with zx := c.zx - 1 })

/-- R204 to R206: the advance is a horizontal move, an edge reversal with a column-left step, or a vertical move back to
the right column. -/
def Obligations.AdvanceMovesTheCursor : Prop :=
  ∀ c : Cursor,
    (c.hnext = true → c.advance = { c.colLeft with hnext := false }) ∧
    (c.hnext = false → c.up = true → c.zy = 0 →
      c.advance = { ({ c with up := false } : Cursor).colLeft with hnext := true }) ∧
    (c.hnext = false → c.up = false → c.zy = 28 →
      c.advance = { ({ c with up := true } : Cursor).colLeft with hnext := true }) ∧
    (c.hnext = false → c.up = true → c.zy ≠ 0 →
      c.advance = { c with zx := c.zx + 1, zy := c.zy - 1, hnext := true }) ∧
    (c.hnext = false → c.up = false → c.zy ≠ 28 →
      c.advance = { c with zx := c.zx + 1, zy := c.zy + 1, hnext := true })

/-- R209: ZZNEXT yields the cursor's coordinate and advances while ZV is 1; on an ended sequence it clears COV and leaves
CX and CY. In both cases ERR is cleared and nothing else changes. -/
def Obligations.ZznextYieldsAndAdvances : Prop :=
  ∀ s : State, s.block.opst = .ready →
    (s.block.cursor.zv = true → exec .zznext s = .next { s with block := { s.block with
      cx := s.block.cursor.zx, cy := s.block.cursor.zy, cov := true, cursor := s.block.cursor.advance,
      err := 0x00 } }) ∧
    (s.block.cursor.zv = false → exec .zznext s = .next { s with block := { s.block with
      cov := false, err := 0x00 } })

/-- R210: at the n-th cursor of the traversal ZZNEXT yields the n-th coordinate of the closed form and leaves the
(n+1)-th cursor; after the 812th the sequence has ended. -/
def Obligations.ZznextFollowsTheClosedForm : Prop :=
  ∀ (s : State) (n : Nat), s.block.opst = .ready → n < 812 → s.block.cursor = cursorAt n →
    ∃ t, exec .zznext s = .next t ∧ t.block.cov = true ∧ t.block.cx.toNat = (coordAt n).1 ∧
      t.block.cy.toNat = (coordAt n).2 ∧ t.block.cursor = cursorAt (n + 1) ∧
      (t.block.cursor.zv = true ↔ n + 1 < 812)

/-- R210: the traversal yields 812 coordinates in the order of the closed form, all distinct, exactly the cells outside
column 6. -/
def Obligations.TraversalCoversAllButColumnSix : Prop :=
  zzSeq = (List.range 812).map coordAt ∧ zzSeq.length = 812 ∧ zzSeq.Nodup ∧
  (∀ x y, (x, y) ∈ zzSeq ↔ x < 29 ∧ y < 29 ∧ x ≠ 6)

/-- R201: no traversal command reads the grid or the codewords: from equal cursors ZZNEXT yields equal coordinates and
leaves equal cursors, whatever else differs. -/
def Obligations.TraversalIgnoresGridAndCodewords : Prop :=
  ∀ s s' : State, s.block.opst = .ready → s'.block.opst = .ready → s.block.cursor = s'.block.cursor →
    ∃ t t', exec .zznext s = .next t ∧ exec .zznext s' = .next t' ∧ t.block.cursor = t'.block.cursor ∧
      t.block.cov = t'.block.cov ∧
      (t.block.cov = true → t.block.cx = t'.block.cx ∧ t.block.cy = t'.block.cy)

/-! ### The placement engine -/

/-- R213, R214, R218: with exactly 567 open cells, all Unknown, PLACE writes stream bit k into the k-th of them and
nothing else of the grid, and ends with SPOS = 567, the cursor ended and PV set. -/
def Obligations.PlaceFillsTheGrid : Prop :=
  ∀ s : State, s.block.opst = .ready → s.block.cv = true → s.block.grid.wf = true →
    s.block.openCells.length = 567 → s.block.UnknownBelow 567 →
    ∃ g, exec .place s = .next { s with block := { s.block with
        grid := g, cursor := { zx := 0, zy := 28, up := true, hnext := true, zv := false }, cx := 0, cy := 28,
        cov := true, spos := 567, pv := true, err := 0x00 } } ∧
      s.block.Filled 567 g

/-- R215 (a), R217: with the 568th open cell reached PLACE faults with F_COUNT there, the first 567 cells written. -/
def Obligations.PlaceFaultsWhenBitsRunOut : Prop :=
  ∀ (s : State) (n : Nat), s.block.opst = .ready → s.block.cv = true → s.block.grid.wf = true → n < 812 →
    s.block.openCells[567]? = some (coordAt n) → s.block.UnknownBelow 567 →
    ∃ g, exec .place s = .next { s with block := { s.block with
        grid := g, cursor := cursorAt (n + 1), cx := BitVec.ofNat 5 (coordAt n).1, cy := BitVec.ofNat 5 (coordAt n).2,
        cov := true, spos := 567, err := 0xFF, fcode := 0x01, opst := .faulted } } ∧
      s.block.Filled 567 g

/-- R215 (b), R217: with fewer than 567 open cells, all Unknown, PLACE faults with F_COUNT at the end of the traversal,
every open cell written. -/
def Obligations.PlaceFaultsWhenCellsRunOut : Prop :=
  ∀ s : State, s.block.opst = .ready → s.block.cv = true → s.block.grid.wf = true →
    s.block.openCells.length < 567 → s.block.UnknownBelow 567 →
    ∃ g, exec .place s = .next { s with block := { s.block with
        grid := g, cursor := { zx := 0, zy := 28, up := true, hnext := true, zv := false }, cx := 0, cy := 28,
        cov := true, spos := BitVec.ofNat 10 s.block.openCells.length, err := 0xFF, fcode := 0x01,
        opst := .faulted } } ∧
      s.block.Filled s.block.openCells.length g

/-- R216, R217: at the first open cell that already holds Data, with bits left, PLACE faults with F_OVERWRITE, the cells
before it written and that cell not. -/
def Obligations.PlaceFaultsOnDataCell : Prop :=
  ∀ (s : State) (j n : Nat) (dark : Bool), s.block.opst = .ready → s.block.cv = true → s.block.grid.wf = true →
    j < 567 → n < 812 → s.block.openCells[j]? = some (coordAt n) →
    s.block.cell (coordAt n).1 (coordAt n).2 = .data dark → s.block.UnknownBelow j →
    ∃ g, exec .place s = .next { s with block := { s.block with
        grid := g, cursor := cursorAt (n + 1), cx := BitVec.ofNat 5 (coordAt n).1, cy := BitVec.ofNat 5 (coordAt n).2,
        cov := true, spos := BitVec.ofNat 10 j, err := 0xFF, fcode := 0x02, opst := .faulted } } ∧
      s.block.Filled j g

/-- R216, R218, R93: whatever its outcome, PLACE writes Data into Unknown cells only, never column 6, and leaves PAY,
PLEN, CW, DV, CV and the host's side. -/
def Obligations.PlaceWritesUnknownCellsOnly : Prop :=
  ∀ s t : State, s.block.grid.wf = true → exec .place s = .next t →
    t = { s with block := { s.block with
      opst := t.block.opst, err := t.block.err, fcode := t.block.fcode, pv := t.block.pv, grid := t.block.grid,
      cursor := t.block.cursor, cx := t.block.cx, cy := t.block.cy, cov := t.block.cov, spos := t.block.spos } } ∧
    (∀ a, t.block.grid.get a ≠ s.block.grid.get a →
      ∃ x y, x < 29 ∧ y < 29 ∧ x ≠ 6 ∧ a = cellIndex x y ∧ s.block.cell x y = .unknown ∧
        ∃ dark, t.block.cell x y = .data dark)

/-! ### Errors and faults -/

/-- R253: raising an error writes ERR and nothing else, and a write to CMD that ends READY with ERR not 0x00 has changed
ERR and nothing else of the block. -/
def Obligations.ErringCommandChangesErrOnly : Prop :=
  (∀ (e : ErrName) (b : Block), b.raiseError e = { b with err := e.code }) ∧
  (∀ (s t : State) (v : Byte) (rest : List Transaction), s.script = .write 0x000 v :: rest →
    s.block.opst = .ready → step s = .next t → t.block.opst = .ready → t.block.err ≠ 0x00 →
    t = { s with script := rest, block := { s.block with err := t.block.err } } ∧
    (t.block.err = 0x01 ∨ t.block.err = 0x04 ∨ t.block.err = 0x05))

/-- R255: fault entry writes FCODE, ERR and OPST and nothing else, so what the command wrote before stands; STATUS then
has ERRF and FAULT set. -/
def Obligations.FaultEntryLatchesAndKeeps : Prop :=
  ∀ (f : FaultName) (b : Block),
    b.raiseFault f = { b with fcode := f.code, err := 0xFF, opst := .faulted } ∧
    (hostRead (b.raiseFault f) 0x001).getLsbD 0 = true ∧ (hostRead (b.raiseFault f) 0x001).getLsbD 1 = true

/-- R252, R271: a step that enters FAULTED is a PLACE with CV set, and FCODE is then F_COUNT or F_OVERWRITE. -/
def Obligations.OnlyPlaceEntersFaulted : Prop :=
  ∀ s t : State, s.block.opst = .ready → step s = .next t → t.block.opst = .faulted →
    s.Issues 0x41 ∧ s.block.cv = true ∧ t.block.err = 0xFF ∧ (t.block.fcode = 0x01 ∨ t.block.fcode = 0x02)

/-! ### Whole-machine rules -/

/-- R21 to R34, R210: the invariant of the block is kept by every step. -/
def Obligations.EveryStepKeepsBlockInvariant : Prop :=
  ∀ s t : State, s.block.Inv → step s = .next t → t.block.Inv

/-- R40: the invariants of the block hold at reset. -/
def Obligations.BlockInvariantsAtReset : Prop := State.reset.block.Inv ∧ State.reset.block.CodewordsOk

/-- R23, R33: with DV the data codewords are the frame of a payload, with CV the error-correction codewords are those of
the present data codewords, and every step keeps both. -/
def Obligations.EveryStepKeepsCodewordsValid : Prop :=
  ∀ s t : State, s.block.Inv → s.block.CodewordsOk → step s = .next t → t.block.CodewordsOk

/-- R32: PAY changes only by a push in READY, CLR in READY and a reset. -/
def Obligations.PayloadChangesOnlyByPushClearReset : Prop :=
  ∀ s t : State, step s = .next t → t.block.pay ≠ s.block.pay →
    s.Resets ∨ (s.block.opst = .ready ∧ ∃ v rest, s.script = .write 0x005 v :: rest) ∨ s.Issues 0x01

/-- R33: CW changes only by BSENC, RSENC, CLR in READY and a reset; BSENC leaves CW[55..69], RSENC leaves CW[0..54]. -/
def Obligations.CodewordsChangeOnlyByTheirWriters : Prop :=
  ∀ s t : State, s.block.cw.wf = true → step s = .next t → ∀ c, t.block.cw.get c ≠ s.block.cw.get c →
    s.Resets ∨ s.Issues 0x01 ∨ (s.Issues 0x10 ∧ c < 55) ∨ (s.Issues 0x20 ∧ 55 ≤ c ∧ c < 70)

/-- R23: the events that change DV, CV and PV, each the ones the rule names and no other. -/
def Obligations.ValidityFlagsChangeByNamedEvents : Prop :=
  ∀ s t : State, step s = .next t →
    (s.block.dv = false → t.block.dv = true → s.Issues 0x10) ∧
    (s.block.dv = true → t.block.dv = false → s.Resets ∨ s.Issues 0x01) ∧
    (s.block.cv = false → t.block.cv = true → s.Issues 0x20) ∧
    (s.block.cv = true → t.block.cv = false → s.Resets ∨ s.Issues 0x01 ∨ s.Issues 0x10) ∧
    (s.block.pv = false → t.block.pv = true → s.Issues 0x41) ∧
    (s.block.pv = true → t.block.pv = false → s.Resets ∨ s.Issues 0x01 ∨ s.Issues 0x40)

/-- R24, R25, R254: ERR and FCODE change only by a write to CMD in READY and by a reset; FCODE, once a fault is latched,
only by a reset. -/
def Obligations.OutcomeRegistersChangeByCommandOrReset : Prop :=
  ∀ s t : State, step s = .next t →
    (t.block.err ≠ s.block.err ∨ t.block.fcode ≠ s.block.fcode → s.Resets ∨ ∃ v, s.Issues v) ∧
    (s.block.opst = .faulted → t.block.fcode ≠ s.block.fcode → s.Resets)

/-- R28, R29, R30, R31: the cursor, CX, CY, COV and SPOS change only by ZZINIT, ZZNEXT, PLACE, CLR and a reset, and SPOS
by none of the first two. -/
def Obligations.CursorChangesOnlyByTraversalCommands : Prop :=
  ∀ s t : State, step s = .next t →
    (t.block.cursor ≠ s.block.cursor ∨ t.block.cx ≠ s.block.cx ∨ t.block.cy ≠ s.block.cy ∨
        t.block.cov ≠ s.block.cov →
      s.Resets ∨ s.Issues 0x01 ∨ s.Issues 0x30 ∨ s.Issues 0x31 ∨ s.Issues 0x41) ∧
    (t.block.spos ≠ s.block.spos → s.Resets ∨ s.Issues 0x01 ∨ s.Issues 0x41)
end

