-- ==== Sys2Proof/Laws/Bitstream.lean ====
section
/-! SUPPORT. The lengths of the bit-stream encoder's sequences, step by step (41_bitstream.md R143 to R149). -/

namespace Sys2Proof.Machine

@[simp] theorem length_bitsMsb (v n : Nat) : (bitsMsb v n).length = n := by simp [bitsMsb]

@[simp] theorem length_packBits (bits : List Bool) : (packBits bits).length = 55 := by simp [packBits]

@[simp] theorem length_payload (b : Block) : b.payload.length = b.plen.toNat := by
  simp [Block.payload, Memory.getRange]

/-- After step 3, 4 + CCW + 8n bits. -/
theorem length_headerAndPayload (p : Config.Params) (pay : List Byte) :
    (headerAndPayload p pay).length = 4 + p.ccw + 8 * pay.length := by
  have h : (pay.flatMap fun v => bitsMsb v.toNat 8).length = 8 * pay.length := by
    induction pay with
    | nil => rfl
    | cons v vs ih => rw [List.flatMap_cons, List.length_append, ih, length_bitsMsb, List.length_cons]; omega
  simp only [headerAndPayload, List.length_append, length_bitsMsb, h]

theorem length_addTerminator (bits : List Bool) :
    (addTerminator bits).length = bits.length + min 4 (440 - bits.length) := by simp [addTerminator]

theorem length_addAlignment (bits : List Bool) :
    (addAlignment bits).length = bits.length + (8 - bits.length % 8) % 8 := by simp [addAlignment]

/-- Step 6 reaches the capacity exactly from a multiple of 8 below it, when the passes suffice. -/
theorem length_addPads (passes k : Nat) (bits : List Bool) (h8 : bits.length % 8 = 0) (hle : bits.length ≤ 440)
    (hp : 440 ≤ bits.length + 8 * passes) : (addPads passes k bits).length = 440 := by
  induction passes generalizing k bits with
  | zero => simp only [addPads]; omega
  | succ n ih =>
    rw [addPads]
    split
    · rename_i hlt
      simp only [Config.capBits] at hlt
      apply ih <;> simp only [List.length_append, length_bitsMsb] <;> omega
    · rename_i hge
      simp only [Config.capBits] at hge
      omega

/-- All BSENC can do to a READY block: the error, the unreachable fault, or the 55 bytes. -/
theorem encodeBits_cases (p : Config.Params) (b : Block) :
    (440 < 4 + p.ccw + 8 * b.plen.toNat ∧ b.encodeBits p = b.raiseError .msgTooLong) ∨
    (4 + p.ccw + 8 * b.plen.toNat ≤ 440 ∧ (frameBits p b.payload).length ≠ 440 ∧
      b.encodeBits p = b.raiseFault .bsLen) ∨
    (4 + p.ccw + 8 * b.plen.toNat ≤ 440 ∧ (frameBits p b.payload).length = 440 ∧
      b.encodeBits p =
        { b with cw := b.cw.setRange 0 (packBits (frameBits p b.payload)), dv := true, cv := false, err := 0x00 }) := by
  unfold Block.encodeBits tooLong
  simp only [Config.capBits, decide_eq_true_eq]
  by_cases hl : 440 < 4 + p.ccw + 8 * b.plen.toNat
  · exact .inl ⟨hl, by rw [if_pos hl]⟩
  · rw [if_neg hl]
    by_cases hf : (frameBits p b.payload).length = 440
    · exact .inr (.inr ⟨by omega, hf, by rw [if_neg (by simpa using hf)]; rfl⟩)
    · exact .inr (.inl ⟨by omega, hf, by rw [if_pos hf]⟩)

/-- What BSENC stores is bs_encode of the payload (R152). -/
theorem bsEncode_of_fits (p : Config.Params) (pay : List Byte) (h : 4 + p.ccw + 8 * pay.length ≤ 440) :
    bsEncode p pay = some (packBits (frameBits p pay)) := by
  rw [bsEncode, tooLong, if_neg (by simpa using h)]

end Sys2Proof.Machine
end

