-- ==== Sys2Proof/Laws/State.lean ====
section
/-! SUPPORT. The named updates of the block, field by field: what each writes and that it leaves the rest. -/

namespace Sys2Proof.Machine

/-! `succeed` -/

@[simp] theorem Block.succeed_opst (b : Block) :
    b.succeed.opst = b.opst := rfl
@[simp] theorem Block.succeed_err (b : Block) :
    b.succeed.err = 0x00 := rfl
@[simp] theorem Block.succeed_fcode (b : Block) :
    b.succeed.fcode = b.fcode := rfl
@[simp] theorem Block.succeed_dv (b : Block) :
    b.succeed.dv = b.dv := rfl
@[simp] theorem Block.succeed_cv (b : Block) :
    b.succeed.cv = b.cv := rfl
@[simp] theorem Block.succeed_pv (b : Block) :
    b.succeed.pv = b.pv := rfl
@[simp] theorem Block.succeed_plen (b : Block) :
    b.succeed.plen = b.plen := rfl
@[simp] theorem Block.succeed_pay (b : Block) :
    b.succeed.pay = b.pay := rfl
@[simp] theorem Block.succeed_cw (b : Block) :
    b.succeed.cw = b.cw := rfl
@[simp] theorem Block.succeed_grid (b : Block) :
    b.succeed.grid = b.grid := rfl
@[simp] theorem Block.succeed_cursor (b : Block) :
    b.succeed.cursor = b.cursor := rfl
@[simp] theorem Block.succeed_cx (b : Block) :
    b.succeed.cx = b.cx := rfl
@[simp] theorem Block.succeed_cy (b : Block) :
    b.succeed.cy = b.cy := rfl
@[simp] theorem Block.succeed_cov (b : Block) :
    b.succeed.cov = b.cov := rfl
@[simp] theorem Block.succeed_spos (b : Block) :
    b.succeed.spos = b.spos := rfl

/-! `raiseError` -/

@[simp] theorem Block.raiseError_opst (e : ErrName) (b : Block) :
    (b.raiseError e).opst = b.opst := rfl
@[simp] theorem Block.raiseError_err (e : ErrName) (b : Block) :
    (b.raiseError e).err = e.code := rfl
@[simp] theorem Block.raiseError_fcode (e : ErrName) (b : Block) :
    (b.raiseError e).fcode = b.fcode := rfl
@[simp] theorem Block.raiseError_dv (e : ErrName) (b : Block) :
    (b.raiseError e).dv = b.dv := rfl
@[simp] theorem Block.raiseError_cv (e : ErrName) (b : Block) :
    (b.raiseError e).cv = b.cv := rfl
@[simp] theorem Block.raiseError_pv (e : ErrName) (b : Block) :
    (b.raiseError e).pv = b.pv := rfl
@[simp] theorem Block.raiseError_plen (e : ErrName) (b : Block) :
    (b.raiseError e).plen = b.plen := rfl
@[simp] theorem Block.raiseError_pay (e : ErrName) (b : Block) :
    (b.raiseError e).pay = b.pay := rfl
@[simp] theorem Block.raiseError_cw (e : ErrName) (b : Block) :
    (b.raiseError e).cw = b.cw := rfl
@[simp] theorem Block.raiseError_grid (e : ErrName) (b : Block) :
    (b.raiseError e).grid = b.grid := rfl
@[simp] theorem Block.raiseError_cursor (e : ErrName) (b : Block) :
    (b.raiseError e).cursor = b.cursor := rfl
@[simp] theorem Block.raiseError_cx (e : ErrName) (b : Block) :
    (b.raiseError e).cx = b.cx := rfl
@[simp] theorem Block.raiseError_cy (e : ErrName) (b : Block) :
    (b.raiseError e).cy = b.cy := rfl
@[simp] theorem Block.raiseError_cov (e : ErrName) (b : Block) :
    (b.raiseError e).cov = b.cov := rfl
@[simp] theorem Block.raiseError_spos (e : ErrName) (b : Block) :
    (b.raiseError e).spos = b.spos := rfl

/-! `raiseFault` -/

@[simp] theorem Block.raiseFault_opst (f : FaultName) (b : Block) :
    (b.raiseFault f).opst = .faulted := rfl
@[simp] theorem Block.raiseFault_err (f : FaultName) (b : Block) :
    (b.raiseFault f).err = 0xFF := rfl
@[simp] theorem Block.raiseFault_fcode (f : FaultName) (b : Block) :
    (b.raiseFault f).fcode = f.code := rfl
@[simp] theorem Block.raiseFault_dv (f : FaultName) (b : Block) :
    (b.raiseFault f).dv = b.dv := rfl
@[simp] theorem Block.raiseFault_cv (f : FaultName) (b : Block) :
    (b.raiseFault f).cv = b.cv := rfl
@[simp] theorem Block.raiseFault_pv (f : FaultName) (b : Block) :
    (b.raiseFault f).pv = b.pv := rfl
@[simp] theorem Block.raiseFault_plen (f : FaultName) (b : Block) :
    (b.raiseFault f).plen = b.plen := rfl
@[simp] theorem Block.raiseFault_pay (f : FaultName) (b : Block) :
    (b.raiseFault f).pay = b.pay := rfl
@[simp] theorem Block.raiseFault_cw (f : FaultName) (b : Block) :
    (b.raiseFault f).cw = b.cw := rfl
@[simp] theorem Block.raiseFault_grid (f : FaultName) (b : Block) :
    (b.raiseFault f).grid = b.grid := rfl
@[simp] theorem Block.raiseFault_cursor (f : FaultName) (b : Block) :
    (b.raiseFault f).cursor = b.cursor := rfl
@[simp] theorem Block.raiseFault_cx (f : FaultName) (b : Block) :
    (b.raiseFault f).cx = b.cx := rfl
@[simp] theorem Block.raiseFault_cy (f : FaultName) (b : Block) :
    (b.raiseFault f).cy = b.cy := rfl
@[simp] theorem Block.raiseFault_cov (f : FaultName) (b : Block) :
    (b.raiseFault f).cov = b.cov := rfl
@[simp] theorem Block.raiseFault_spos (f : FaultName) (b : Block) :
    (b.raiseFault f).spos = b.spos := rfl

/-! `setCell` -/

@[simp] theorem Block.setCell_opst (b : Block) (x y : Nat) (m : Module) :
    (b.setCell x y m).opst = b.opst := rfl
@[simp] theorem Block.setCell_err (b : Block) (x y : Nat) (m : Module) :
    (b.setCell x y m).err = b.err := rfl
@[simp] theorem Block.setCell_fcode (b : Block) (x y : Nat) (m : Module) :
    (b.setCell x y m).fcode = b.fcode := rfl
@[simp] theorem Block.setCell_dv (b : Block) (x y : Nat) (m : Module) :
    (b.setCell x y m).dv = b.dv := rfl
@[simp] theorem Block.setCell_cv (b : Block) (x y : Nat) (m : Module) :
    (b.setCell x y m).cv = b.cv := rfl
@[simp] theorem Block.setCell_pv (b : Block) (x y : Nat) (m : Module) :
    (b.setCell x y m).pv = b.pv := rfl
@[simp] theorem Block.setCell_plen (b : Block) (x y : Nat) (m : Module) :
    (b.setCell x y m).plen = b.plen := rfl
@[simp] theorem Block.setCell_pay (b : Block) (x y : Nat) (m : Module) :
    (b.setCell x y m).pay = b.pay := rfl
@[simp] theorem Block.setCell_cw (b : Block) (x y : Nat) (m : Module) :
    (b.setCell x y m).cw = b.cw := rfl
@[simp] theorem Block.setCell_grid (b : Block) (x y : Nat) (m : Module) :
    (b.setCell x y m).grid = b.grid.set (cellIndex x y) m.code := rfl
@[simp] theorem Block.setCell_cursor (b : Block) (x y : Nat) (m : Module) :
    (b.setCell x y m).cursor = b.cursor := rfl
@[simp] theorem Block.setCell_cx (b : Block) (x y : Nat) (m : Module) :
    (b.setCell x y m).cx = b.cx := rfl
@[simp] theorem Block.setCell_cy (b : Block) (x y : Nat) (m : Module) :
    (b.setCell x y m).cy = b.cy := rfl
@[simp] theorem Block.setCell_cov (b : Block) (x y : Nat) (m : Module) :
    (b.setCell x y m).cov = b.cov := rfl
@[simp] theorem Block.setCell_spos (b : Block) (x y : Nat) (m : Module) :
    (b.setCell x y m).spos = b.spos := rfl

/-! `writeCell` -/

@[simp] theorem Block.writeCell_opst (x y : Nat) (v : Byte) (b : Block) :
    (b.writeCell x y v).opst = b.opst := rfl
@[simp] theorem Block.writeCell_err (x y : Nat) (v : Byte) (b : Block) :
    (b.writeCell x y v).err = b.err := rfl
@[simp] theorem Block.writeCell_fcode (x y : Nat) (v : Byte) (b : Block) :
    (b.writeCell x y v).fcode = b.fcode := rfl
@[simp] theorem Block.writeCell_dv (x y : Nat) (v : Byte) (b : Block) :
    (b.writeCell x y v).dv = b.dv := rfl
@[simp] theorem Block.writeCell_cv (x y : Nat) (v : Byte) (b : Block) :
    (b.writeCell x y v).cv = b.cv := rfl
@[simp] theorem Block.writeCell_pv (x y : Nat) (v : Byte) (b : Block) :
    (b.writeCell x y v).pv = b.pv := rfl
@[simp] theorem Block.writeCell_plen (x y : Nat) (v : Byte) (b : Block) :
    (b.writeCell x y v).plen = b.plen := rfl
@[simp] theorem Block.writeCell_pay (x y : Nat) (v : Byte) (b : Block) :
    (b.writeCell x y v).pay = b.pay := rfl
@[simp] theorem Block.writeCell_cw (x y : Nat) (v : Byte) (b : Block) :
    (b.writeCell x y v).cw = b.cw := rfl
@[simp] theorem Block.writeCell_grid (x y : Nat) (v : Byte) (b : Block) :
    (b.writeCell x y v).grid = b.grid.set (cellIndex x y) (legalise v) := rfl
@[simp] theorem Block.writeCell_cursor (x y : Nat) (v : Byte) (b : Block) :
    (b.writeCell x y v).cursor = b.cursor := rfl
@[simp] theorem Block.writeCell_cx (x y : Nat) (v : Byte) (b : Block) :
    (b.writeCell x y v).cx = b.cx := rfl
@[simp] theorem Block.writeCell_cy (x y : Nat) (v : Byte) (b : Block) :
    (b.writeCell x y v).cy = b.cy := rfl
@[simp] theorem Block.writeCell_cov (x y : Nat) (v : Byte) (b : Block) :
    (b.writeCell x y v).cov = b.cov := rfl
@[simp] theorem Block.writeCell_spos (x y : Nat) (v : Byte) (b : Block) :
    (b.writeCell x y v).spos = b.spos := rfl

/-! `yieldCoord` -/

@[simp] theorem Block.yieldCoord_opst (b : Block) :
    b.yieldCoord.opst = b.opst := rfl
@[simp] theorem Block.yieldCoord_err (b : Block) :
    b.yieldCoord.err = b.err := rfl
@[simp] theorem Block.yieldCoord_fcode (b : Block) :
    b.yieldCoord.fcode = b.fcode := rfl
@[simp] theorem Block.yieldCoord_dv (b : Block) :
    b.yieldCoord.dv = b.dv := rfl
@[simp] theorem Block.yieldCoord_cv (b : Block) :
    b.yieldCoord.cv = b.cv := rfl
@[simp] theorem Block.yieldCoord_pv (b : Block) :
    b.yieldCoord.pv = b.pv := rfl
@[simp] theorem Block.yieldCoord_plen (b : Block) :
    b.yieldCoord.plen = b.plen := rfl
@[simp] theorem Block.yieldCoord_pay (b : Block) :
    b.yieldCoord.pay = b.pay := rfl
@[simp] theorem Block.yieldCoord_cw (b : Block) :
    b.yieldCoord.cw = b.cw := rfl
@[simp] theorem Block.yieldCoord_grid (b : Block) :
    b.yieldCoord.grid = b.grid := rfl
@[simp] theorem Block.yieldCoord_cursor (b : Block) :
    b.yieldCoord.cursor = b.cursor.advance := rfl
@[simp] theorem Block.yieldCoord_cx (b : Block) :
    b.yieldCoord.cx = b.cursor.zx := rfl
@[simp] theorem Block.yieldCoord_cy (b : Block) :
    b.yieldCoord.cy = b.cursor.zy := rfl
@[simp] theorem Block.yieldCoord_cov (b : Block) :
    b.yieldCoord.cov = true := rfl
@[simp] theorem Block.yieldCoord_spos (b : Block) :
    b.yieldCoord.spos = b.spos := rfl

/-! `placeStart` -/

@[simp] theorem Block.placeStart_opst (b : Block) :
    b.placeStart.opst = b.opst := rfl
@[simp] theorem Block.placeStart_err (b : Block) :
    b.placeStart.err = b.err := rfl
@[simp] theorem Block.placeStart_fcode (b : Block) :
    b.placeStart.fcode = b.fcode := rfl
@[simp] theorem Block.placeStart_dv (b : Block) :
    b.placeStart.dv = b.dv := rfl
@[simp] theorem Block.placeStart_cv (b : Block) :
    b.placeStart.cv = b.cv := rfl
@[simp] theorem Block.placeStart_pv (b : Block) :
    b.placeStart.pv = b.pv := rfl
@[simp] theorem Block.placeStart_plen (b : Block) :
    b.placeStart.plen = b.plen := rfl
@[simp] theorem Block.placeStart_pay (b : Block) :
    b.placeStart.pay = b.pay := rfl
@[simp] theorem Block.placeStart_cw (b : Block) :
    b.placeStart.cw = b.cw := rfl
@[simp] theorem Block.placeStart_grid (b : Block) :
    b.placeStart.grid = b.grid := rfl
@[simp] theorem Block.placeStart_cursor (b : Block) :
    b.placeStart.cursor = Cursor.start := rfl
@[simp] theorem Block.placeStart_cx (b : Block) :
    b.placeStart.cx = b.cx := rfl
@[simp] theorem Block.placeStart_cy (b : Block) :
    b.placeStart.cy = b.cy := rfl
@[simp] theorem Block.placeStart_cov (b : Block) :
    b.placeStart.cov = false := rfl
@[simp] theorem Block.placeStart_spos (b : Block) :
    b.placeStart.spos = 0 := rfl

/-! `clearGrid` -/

@[simp] theorem Block.clearGrid_opst (b : Block) :
    b.clearGrid.opst = b.opst := rfl
@[simp] theorem Block.clearGrid_err (b : Block) :
    b.clearGrid.err = 0x00 := rfl
@[simp] theorem Block.clearGrid_fcode (b : Block) :
    b.clearGrid.fcode = b.fcode := rfl
@[simp] theorem Block.clearGrid_dv (b : Block) :
    b.clearGrid.dv = b.dv := rfl
@[simp] theorem Block.clearGrid_cv (b : Block) :
    b.clearGrid.cv = b.cv := rfl
@[simp] theorem Block.clearGrid_pv (b : Block) :
    b.clearGrid.pv = false := rfl
@[simp] theorem Block.clearGrid_plen (b : Block) :
    b.clearGrid.plen = b.plen := rfl
@[simp] theorem Block.clearGrid_pay (b : Block) :
    b.clearGrid.pay = b.pay := rfl
@[simp] theorem Block.clearGrid_cw (b : Block) :
    b.clearGrid.cw = b.cw := rfl
@[simp] theorem Block.clearGrid_grid (b : Block) :
    b.clearGrid.grid = Memory.clear := rfl
@[simp] theorem Block.clearGrid_cursor (b : Block) :
    b.clearGrid.cursor = b.cursor := rfl
@[simp] theorem Block.clearGrid_cx (b : Block) :
    b.clearGrid.cx = b.cx := rfl
@[simp] theorem Block.clearGrid_cy (b : Block) :
    b.clearGrid.cy = b.cy := rfl
@[simp] theorem Block.clearGrid_cov (b : Block) :
    b.clearGrid.cov = b.cov := rfl
@[simp] theorem Block.clearGrid_spos (b : Block) :
    b.clearGrid.spos = b.spos := rfl

/-! `initTraversal` -/

@[simp] theorem Block.initTraversal_opst (b : Block) :
    b.initTraversal.opst = b.opst := rfl
@[simp] theorem Block.initTraversal_err (b : Block) :
    b.initTraversal.err = 0x00 := rfl
@[simp] theorem Block.initTraversal_fcode (b : Block) :
    b.initTraversal.fcode = b.fcode := rfl
@[simp] theorem Block.initTraversal_dv (b : Block) :
    b.initTraversal.dv = b.dv := rfl
@[simp] theorem Block.initTraversal_cv (b : Block) :
    b.initTraversal.cv = b.cv := rfl
@[simp] theorem Block.initTraversal_pv (b : Block) :
    b.initTraversal.pv = b.pv := rfl
@[simp] theorem Block.initTraversal_plen (b : Block) :
    b.initTraversal.plen = b.plen := rfl
@[simp] theorem Block.initTraversal_pay (b : Block) :
    b.initTraversal.pay = b.pay := rfl
@[simp] theorem Block.initTraversal_cw (b : Block) :
    b.initTraversal.cw = b.cw := rfl
@[simp] theorem Block.initTraversal_grid (b : Block) :
    b.initTraversal.grid = b.grid := rfl
@[simp] theorem Block.initTraversal_cursor (b : Block) :
    b.initTraversal.cursor = Cursor.start := rfl
@[simp] theorem Block.initTraversal_cx (b : Block) :
    b.initTraversal.cx = b.cx := rfl
@[simp] theorem Block.initTraversal_cy (b : Block) :
    b.initTraversal.cy = b.cy := rfl
@[simp] theorem Block.initTraversal_cov (b : Block) :
    b.initTraversal.cov = false := rfl
@[simp] theorem Block.initTraversal_spos (b : Block) :
    b.initTraversal.spos = b.spos := rfl

/-! `push` -/

@[simp] theorem Block.push_opst (v : Byte) (b : Block) :
    (b.push v).opst = b.opst := rfl
@[simp] theorem Block.push_err (v : Byte) (b : Block) :
    (b.push v).err = b.err := rfl
@[simp] theorem Block.push_fcode (v : Byte) (b : Block) :
    (b.push v).fcode = b.fcode := rfl
@[simp] theorem Block.push_dv (v : Byte) (b : Block) :
    (b.push v).dv = b.dv := rfl
@[simp] theorem Block.push_cv (v : Byte) (b : Block) :
    (b.push v).cv = b.cv := rfl
@[simp] theorem Block.push_pv (v : Byte) (b : Block) :
    (b.push v).pv = b.pv := rfl
@[simp] theorem Block.push_plen (v : Byte) (b : Block) :
    (b.push v).plen = BitVec.ofNat 8 (min (b.plen.toNat + 1) Config.plenMax) := rfl
@[simp] theorem Block.push_pay (v : Byte) (b : Block) :
    (b.push v).pay = if b.plen.toNat < Config.paySize then b.pay.set b.plen.toNat v else b.pay := rfl
@[simp] theorem Block.push_cw (v : Byte) (b : Block) :
    (b.push v).cw = b.cw := rfl
@[simp] theorem Block.push_grid (v : Byte) (b : Block) :
    (b.push v).grid = b.grid := rfl
@[simp] theorem Block.push_cursor (v : Byte) (b : Block) :
    (b.push v).cursor = b.cursor := rfl
@[simp] theorem Block.push_cx (v : Byte) (b : Block) :
    (b.push v).cx = b.cx := rfl
@[simp] theorem Block.push_cy (v : Byte) (b : Block) :
    (b.push v).cy = b.cy := rfl
@[simp] theorem Block.push_cov (v : Byte) (b : Block) :
    (b.push v).cov = b.cov := rfl
@[simp] theorem Block.push_spos (v : Byte) (b : Block) :
    (b.push v).spos = b.spos := rfl

/-! The machine's update -/

@[simp] theorem State.mapBlock_block (f : Block → Block) (s : State) : (s.mapBlock f).block = f s.block := rfl
@[simp] theorem State.mapBlock_script (f : Block → Block) (s : State) : (s.mapBlock f).script = s.script := rfl
@[simp] theorem State.mapBlock_replies (f : Block → Block) (s : State) : (s.mapBlock f).replies = s.replies := rfl

@[simp] theorem State.issueCommand_block (v : Byte) (s : State) : (s.issueCommand v).block = s.block := rfl
@[simp] theorem State.issueCommand_script (v : Byte) (s : State) :
    (s.issueCommand v).script = .write 0x000 v :: s.script := rfl
@[simp] theorem State.issueCommand_replies (v : Byte) (s : State) : (s.issueCommand v).replies = s.replies := rfl

@[simp] theorem Block.hardReset_eq (b : Block) : b.hardReset = Block.reset := rfl
@[simp] theorem Block.softReset_eq (b : Block) : b.softReset = Block.reset := rfl

end Sys2Proof.Machine
end

