-- ==== Sys2Proof/Laws/Bus.lean ====
section
/-! SUPPORT. What an address can select: the ranges of the windows, and which single addresses the write ports are
(20_memory.md R62, R69, R71). -/

namespace Sys2Proof.Machine

/-- A cell selected is a cell of the grid, at its own address. -/
theorem gridTarget_cases (k : Nat) :
    (k % 32 < 29 ∧ k / 32 < 29 ∧ gridTarget k = .cell (k % 32) (k / 32)) ∨
    (¬(k % 32 < 29 ∧ k / 32 < 29) ∧ gridTarget k = .reserved) := by
  unfold gridTarget
  simp only [Config.gridStride, Config.gridSize]
  by_cases h : k % 32 < 29 ∧ k / 32 < 29
  · exact .inl ⟨h.1, h.2, by rw [if_pos h]⟩
  · exact .inr ⟨h, by rw [if_neg h]⟩

/-- The address map above the registers. -/
theorem target_of_ge (a : Addr) (h : 0x00D ≤ a.toNat) :
    target a =
      if 0x080 ≤ a.toNat ∧ a.toNat ≤ 0x0C5 then .cw (a.toNat - 0x080)
      else if 0x100 ≤ a.toNat ∧ a.toNat ≤ 0x13F then .pay (a.toNat - 0x100)
      else if 0x400 ≤ a.toNat ∧ a.toNat ≤ 0x7FF then gridTarget (a.toNat - 0x400)
      else .reserved := by
  unfold target
  dsimp only
  split <;> first | omega | rfl

/-- The address map of the registers. -/
theorem target_of_lt : ∀ n, n < 0x00D →
    target (BitVec.ofNat 12 n) =
      [Target.cmd, .status, .err, .fcode, .plen, .pdata, .zx, .zy, .zflags, .cx, .cy, .sposL, .sposH].getD n .reserved := by
  decide

/-- Every address selects a register at its number, a byte of a window, a cell, or nothing. -/
theorem target_cases (a : Addr) :
    (a.toNat < 0x00D ∧ target a =
      [Target.cmd, .status, .err, .fcode, .plen, .pdata, .zx, .zy, .zflags, .cx, .cy, .sposL, .sposH].getD a.toNat
        .reserved) ∨
    (∃ i, i < 70 ∧ a.toNat = 0x080 + i ∧ target a = .cw i) ∨ (∃ i, i < 64 ∧ a.toNat = 0x100 + i ∧ target a = .pay i) ∨
    (∃ x y, x < 29 ∧ y < 29 ∧ a.toNat = 0x400 + 32 * y + x ∧ target a = .cell x y) ∨
    (0x00D ≤ a.toNat ∧ target a = .reserved) := by
  by_cases h : a.toNat < 0x00D
  · refine .inl ⟨h, ?_⟩
    have := target_of_lt a.toNat h
    rwa [BitVec.ofNat_toNat, BitVec.setWidth_eq] at this
  · have hge : 0x00D ≤ a.toNat := by omega
    have ht := target_of_ge a hge
    split at ht
    · exact .inr (.inl ⟨_, by omega, by omega, ht⟩)
    · split at ht
      · exact .inr (.inr (.inl ⟨_, by omega, by omega, ht⟩))
      · split at ht
        · rcases gridTarget_cases (a.toNat - 0x400) with ⟨hx, hy, hg⟩ | ⟨_, hg⟩
          · exact .inr (.inr (.inr (.inl ⟨_, _, hx, hy, by omega, ht.trans hg⟩)))
          · exact .inr (.inr (.inr (.inr ⟨hge, ht.trans hg⟩)))
        · exact .inr (.inr (.inr (.inr ⟨hge, ht⟩)))

end Sys2Proof.Machine
end

