-- ==== Sys2Proof/Laws/Memory.lean ====
section
/-! SUPPORT. The laws of the memories: every operation keeps the canonical form, a read after a write, and equal reads of
canonical memories are equal memories. -/

namespace Sys2Proof.Machine

@[simp] theorem Memory.get_nil (a : Nat) : Memory.get [] a = unlisted := rfl

@[simp] theorem Memory.get_clear (a : Nat) : Memory.clear.get a = unlisted := rfl

@[simp] theorem Memory.wf_clear : Memory.clear.wf = true := rfl

@[simp] theorem Memory.setRange_nil (m : Memory) (base : Nat) : m.setRange base [] = m := rfl

theorem Memory.setRange_cons (m : Memory) (base : Nat) (v : Byte) (vs : List Byte) :
    m.setRange base (v :: vs) = (m.set base v).setRange (base + 1) vs := rfl

theorem natBeq_eq_decide (k a : Nat) : Nat.beq k a = decide (k = a) := by
  rw [Bool.eq_iff_iff, decide_eq_true_iff]
  exact ⟨Nat.eq_of_beq_eq_true, fun h => h ▸ Nat.beq_refl k⟩

theorem natBlt_eq_decide (a k : Nat) : Nat.blt a k = decide (a < k) := by
  rw [Bool.eq_iff_iff, decide_eq_true_iff]
  exact ⟨Nat.le_of_ble_eq_true, Nat.ble_eq_true_of_le⟩

theorem Memory.get_cons (k : Nat) (v : Byte) (rest : Memory) (a : Nat) :
    Memory.get ((k, v) :: rest) a = if k < a then Memory.get rest a else if k = a then v else unlisted := by
  change (bif Nat.blt k a then Memory.get rest a else bif Nat.beq k a then v else unlisted) = _
  rw [natBeq_eq_decide, natBlt_eq_decide, Bool.cond_decide, Bool.cond_decide]

theorem Memory.set_nil (a : Nat) (v : Byte) : Memory.set [] a v = Memory.put a v [] := rfl

theorem Memory.set_cons (k : Nat) (w : Byte) (rest : Memory) (a : Nat) (v : Byte) :
    Memory.set ((k, w) :: rest) a v =
      if k < a then (k, w) :: Memory.set rest a v
      else if k = a then Memory.put a v rest
      else Memory.put a v ((k, w) :: rest) := by
  change (bif Nat.blt k a then (k, w) :: Memory.set rest a v else bif Nat.beq k a then Memory.put a v rest
    else Memory.put a v ((k, w) :: rest)) = _
  rw [natBeq_eq_decide, natBlt_eq_decide, Bool.cond_decide, Bool.cond_decide]

theorem Memory.wfFrom_cons {lo k : Nat} {v : Byte} {rest : Memory} :
    Memory.wfFrom lo ((k, v) :: rest) = true ↔ lo ≤ k ∧ v ≠ unlisted ∧ Memory.wfFrom (k + 1) rest = true := by
  simp [Memory.wfFrom, and_assoc]

theorem Memory.wfFrom_mono {lo lo' : Nat} (h : lo' ≤ lo) {m : Memory} (hm : m.wfFrom lo = true) :
    m.wfFrom lo' = true := by
  cases m with
  | nil => rfl
  | cons e rest =>
    obtain ⟨k, v⟩ := e
    rw [Memory.wfFrom_cons] at hm ⊢
    exact ⟨h.trans hm.1, hm.2⟩

/-- Below the lower bound of a canonical memory nothing is listed. -/
theorem Memory.get_of_lt {lo a : Nat} {m : Memory} (hm : m.wfFrom lo = true) (ha : a < lo) : m.get a = unlisted := by
  cases m with
  | nil => rfl
  | cons e rest =>
    obtain ⟨k, v⟩ := e
    rw [Memory.wfFrom_cons] at hm
    rw [Memory.get_cons, if_neg (by omega), if_neg (by omega)]

theorem Memory.put_wfFrom {lo a : Nat} {rest : Memory} (v : Byte) (ha : lo ≤ a) (hr : rest.wfFrom (a + 1) = true) :
    (Memory.put a v rest).wfFrom lo = true := by
  unfold Memory.put
  split
  · exact Memory.wfFrom_mono (by omega) hr
  · exact Memory.wfFrom_cons.2 ⟨ha, ‹_›, hr⟩

theorem Memory.get_put {a b : Nat} {v : Byte} {rest : Memory} (hr : rest.wfFrom (a + 1) = true) :
    (Memory.put a v rest).get b = if a = b then v else rest.get b := by
  unfold Memory.put
  split
  · subst v
    split
    · subst b; exact Memory.get_of_lt hr (by omega)
    · rfl
  · rw [Memory.get_cons]
    rcases Nat.lt_trichotomy a b with h | h | h
    · rw [if_pos h, if_neg (by omega)]
    · rw [if_neg (by omega), if_pos h, if_pos h]
    · rw [if_neg (by omega), if_neg (by omega), if_neg (by omega), Memory.get_of_lt hr (by omega)]

theorem Memory.set_wfFrom {lo a : Nat} {m : Memory} (v : Byte) (hm : m.wfFrom lo = true) (ha : lo ≤ a) :
    (m.set a v).wfFrom lo = true := by
  induction m generalizing lo with
  | nil => exact Memory.put_wfFrom v ha rfl
  | cons e rest ih =>
    obtain ⟨k, w⟩ := e
    rw [Memory.wfFrom_cons] at hm
    rw [Memory.set_cons]
    split
    · exact Memory.wfFrom_cons.2 ⟨hm.1, hm.2.1, ih hm.2.2 (by omega)⟩
    · split
      · subst a; exact Memory.put_wfFrom v ha hm.2.2
      · exact Memory.put_wfFrom v ha (Memory.wfFrom_cons.2 ⟨by omega, hm.2⟩)

/-- A store keeps the canonical form. -/
theorem Memory.set_wf {m : Memory} (a : Nat) (v : Byte) (hm : m.wf = true) : (m.set a v).wf = true :=
  Memory.set_wfFrom v hm (Nat.zero_le a)

/-- Storing a run of bytes keeps the canonical form. -/
theorem Memory.setRange_wf {m : Memory} (base : Nat) (vs : List Byte) (hm : m.wf = true) :
    (m.setRange base vs).wf = true := by
  induction vs generalizing m base with
  | nil => exact hm
  | cons v vs ih => exact ih (base + 1) (Memory.set_wf base v hm)

theorem Memory.get_set_from {lo b : Nat} {m : Memory} (hm : m.wfFrom lo = true) (a : Nat) (v : Byte) :
    (m.set a v).get b = if a = b then v else m.get b := by
  induction m generalizing lo with
  | nil => exact Memory.get_put rfl
  | cons e rest ih =>
    obtain ⟨k, w⟩ := e
    rw [Memory.wfFrom_cons] at hm
    rw [Memory.set_cons]
    split
    · rename_i hka
      rw [Memory.get_cons, Memory.get_cons, ih hm.2.2]
      by_cases hab : a = b
      · subst hab; simp [hka]
      · simp [hab]
    · split
      · subst a
        rw [Memory.get_put hm.2.2, Memory.get_cons]
        rcases Nat.lt_trichotomy k b with h | h | h
        · simp [h, Nat.ne_of_lt h]
        · simp [h]
        · simp [Nat.ne_of_gt h, Nat.not_lt_of_gt h, Memory.get_of_lt hm.2.2 (Nat.lt_succ_of_lt h)]
      · exact Memory.get_put (Memory.wfFrom_cons.2 ⟨by omega, hm.2⟩)

/-- A read after a store: the byte stored at its index, every other byte as before. -/
theorem Memory.get_set {m : Memory} (hm : m.wf = true) (a b : Nat) (v : Byte) :
    (m.set a v).get b = if a = b then v else m.get b :=
  Memory.get_set_from hm a v

/-- A read after storing a run of bytes. -/
theorem Memory.get_setRange {m : Memory} (hm : m.wf = true) (base : Nat) (vs : List Byte) (b : Nat) :
    (m.setRange base vs).get b =
      if base ≤ b ∧ b < base + vs.length then vs.getD (b - base) 0x00 else m.get b := by
  induction vs generalizing m base with
  | nil =>
    have h : ¬(base ≤ b ∧ b < base + ([] : List Byte).length) := by rw [List.length_nil]; omega
    rw [if_neg h, Memory.setRange_nil]
  | cons v vs ih =>
    rw [Memory.setRange_cons, ih (Memory.set_wf base v hm), Memory.get_set hm]
    by_cases hb : base = b
    · subst hb; simp
    · by_cases hr : base + 1 ≤ b ∧ b < base + 1 + vs.length
      · have : b - base = (b - (base + 1)) + 1 := by omega
        rw [if_pos hr, if_pos (by simp; omega), this, List.getD_cons_succ]
      · rw [if_neg hr, if_neg hb, if_neg (by simp; omega)]

theorem Memory.ext_from {lo : Nat} {m m' : Memory} (hm : m.wfFrom lo = true) (hm' : m'.wfFrom lo = true)
    (h : ∀ a, m.get a = m'.get a) : m = m' := by
  induction m generalizing lo m' with
  | nil =>
    cases m' with
    | nil => rfl
    | cons e rest =>
      obtain ⟨k, v⟩ := e
      rw [Memory.wfFrom_cons] at hm'
      exact absurd (by simpa [Memory.get_cons] using (h k).symm) hm'.2.1
  | cons e rest ih =>
    obtain ⟨k, v⟩ := e
    rw [Memory.wfFrom_cons] at hm
    cases m' with
    | nil => exact absurd (by simpa [Memory.get_cons] using h k) hm.2.1
    | cons e' rest' =>
      obtain ⟨k', v'⟩ := e'
      rw [Memory.wfFrom_cons] at hm'
      rcases Nat.lt_trichotomy k k' with hlt | heq | hgt
      · have h0 : Memory.get ((k', v') :: rest') k = unlisted :=
          Memory.get_of_lt (lo := k') (Memory.wfFrom_cons.2 ⟨le_rfl, hm'.2⟩) hlt
        exact absurd (by rw [← h k] at h0; simpa [Memory.get_cons] using h0) hm.2.1
      · subst heq
        have hv : v = v' := by simpa [Memory.get_cons] using h k
        subst hv
        refine congrArg _ (ih hm.2.2 hm'.2.2 fun a => ?_)
        by_cases hka : k < a
        · simpa [Memory.get_cons, hka] using h a
        · rw [Memory.get_of_lt hm.2.2 (by omega), Memory.get_of_lt hm'.2.2 (by omega)]
      · have h0 : Memory.get ((k, v) :: rest) k' = unlisted :=
          Memory.get_of_lt (lo := k) (Memory.wfFrom_cons.2 ⟨le_rfl, hm.2⟩) hgt
        exact absurd (by rw [h k'] at h0; simpa [Memory.get_cons] using h0) hm'.2.1

/-- Two canonical memories that read the same are the same data. -/
theorem Memory.ext {m m' : Memory} (hm : m.wf = true) (hm' : m'.wf = true) (h : ∀ a, m.get a = m'.get a) : m = m' :=
  Memory.ext_from hm hm' h

/-- Every entry a store leaves is an old one or the one stored. -/
theorem Memory.mem_set {m : Memory} {a : Nat} {v : Byte} {e : Host.Cell} (h : e ∈ m.set a v) : e ∈ m ∨ e = (a, v) := by
  have hput : ∀ rest : Memory, e ∈ Memory.put a v rest → e ∈ rest ∨ e = (a, v) := by
    intro rest he
    unfold Memory.put at he
    split at he
    · exact .inl he
    · exact (List.mem_cons.1 he).symm
  induction m with
  | nil => exact hput [] h
  | cons e' rest ih =>
    obtain ⟨k, w⟩ := e'
    rw [Memory.set_cons] at h
    split at h
    · rcases List.mem_cons.1 h with h | h
      · exact .inl (h ▸ List.mem_cons_self)
      · exact (ih h).imp_left (List.mem_cons_of_mem _)
    · split at h
      · exact (hput rest h).imp_left (List.mem_cons_of_mem _)
      · exact hput _ h

@[simp] theorem Memory.length_getRange (m : Memory) (base n : Nat) : (m.getRange base n).length = n := by
  simp [Memory.getRange]

theorem Memory.getD_getRange (m : Memory) {base n i : Nat} (hi : i < n) :
    (m.getRange base n).getD i 0x00 = m.get (base + i) := by
  simp [Memory.getRange, List.getD, hi]

end Sys2Proof.Machine
end

