-- ==== Sys2Proof/Laws/Cells.lean ====
section
/-! SUPPORT. The laws of the cells: the code of a Module value is read back, the legalised byte is the code of the value
the written byte encodes, and distinct cells have distinct indices (20_memory.md R69, R70; 30_encoding.md R94). -/

namespace Sys2Proof.Machine

@[simp] theorem Module.ofCode_code (m : Module) : Module.ofCode m.code = m := by
  rcases m with _ | _ | (_ | _) | (_ | _) <;> rfl

theorem legalise_eq_code : ∀ v : Byte, legalise v = (Module.ofCode v).code := by decide

theorem legalCode_code (m : Module) : legalCode m.code = true := by
  rcases m with _ | _ | (_ | _) | (_ | _) <;> rfl

theorem legalCode_legalise (v : Byte) : legalCode (legalise v) = true := by
  rw [legalise_eq_code]; exact legalCode_code _

theorem Module.code_ofCode_of_legal : ∀ c : Byte, legalCode c = true → (Module.ofCode c).code = c := by decide

theorem cellIndex_inj {x y x' y' : Nat} (hx : x < 29) (hx' : x' < 29) (h : cellIndex x y = cellIndex x' y') :
    x = x' ∧ y = y' := by
  simp only [cellIndex, Config.gridStride] at h; omega

theorem Module.ofCode_unlisted : Module.ofCode unlisted = .unknown := by decide

theorem Block.cell_reset (x y : Nat) : Block.reset.cell x y = .unknown := Module.ofCode_unlisted

/-- A cell after a cell was written. -/
theorem Block.cell_setCell {b : Block} (hg : b.grid.wf = true) (x y x' y' : Nat) (m : Module) :
    (b.setCell x y m).cell x' y' = if cellIndex x y = cellIndex x' y' then m else b.cell x' y' := by
  rw [Block.cell, Block.setCell, Memory.get_set hg]
  split
  · exact Module.ofCode_code m
  · rfl

end Sys2Proof.Machine
end

