-- ==== Sys2Proof/Laws/Command.lean ====
section
/-! SUPPORT. What a command and a step can do, said once: a command changes the block in READY only and always answers a
next state; a step is one of the host's transactions. -/

namespace Sys2Proof.Machine

theorem Block.whenReady_ready {f : Block → Block} {b : Block} (h : b.opst = .ready) : b.whenReady f = f b := by
  rw [Block.whenReady, h]

theorem Block.whenReady_faulted {f : Block → Block} {b : Block} (h : b.opst = .faulted) : b.whenReady f = b := by
  rw [Block.whenReady, h]

/-- A command in READY has its effect. -/
theorem command_ready {f : Block → Block} {s : State} (h : s.block.opst = .ready) :
    command f s = .next { s with block := f s.block } := by
  rw [command, State.mapBlock, Block.whenReady_ready h]

/-- A command in FAULTED is ignored. -/
theorem command_faulted {f : Block → Block} {s : State} (h : s.block.opst = .faulted) : command f s = .next s := by
  rw [command, State.mapBlock, Block.whenReady_faulted h]

/-- All a command can do: its effect on a READY block, or nothing. -/
theorem command_cases {f : Block → Block} {s t : State} (h : command f s = .next t) :
    (s.block.opst = .ready ∧ t = { s with block := f s.block }) ∨ (s.block.opst = .faulted ∧ t = s) := by
  cases ho : s.block.opst with
  | ready => rw [command_ready ho] at h; cases h; exact .inl ⟨rfl, rfl⟩
  | faulted => rw [command_faulted ho] at h; cases h; exact .inr ⟨rfl, rfl⟩

/-- The change of the block that each command is. -/
def effect : Instr → Block → Block
  | .nop => Block.succeed
  | .clr => Block.softReset
  | .bsenc => Block.encodeBits Config.params
  | .rsenc => Block.encodeEc Config.params
  | .zzinit => Block.initTraversal
  | .zznext => Block.nextCoord
  | .gclr => Block.clearGrid
  | .place => Block.placeStream Config.params

/-- exec is one command. -/
theorem exec_eq_command (i : Instr) (s : State) : exec i s = command (effect i) s := by cases i <;> rfl

theorem exec_ready {s : State} (i : Instr) (h : s.block.opst = .ready) :
    exec i s = .next { s with block := effect i s.block } := by rw [exec_eq_command, command_ready h]

theorem exec_faulted {s : State} (i : Instr) (h : s.block.opst = .faulted) : exec i s = .next s := by
  rw [exec_eq_command, command_faulted h]

/-- What a host write does to the block when it is READY. -/
def writeEffect (addr : Addr) (v : Byte) : Block → Block :=
  match target addr with
  | .cmd =>
    match decode v with
    | .ok i => effect i
    | .error _ => Block.raiseError .badCmd
  | .pdata => Block.push v
  | .cell x y => Block.writeCell x y v
  | _ => id

/-- A host write is one change of the block, in READY only. -/
theorem hostWrite_eq (addr : Addr) (v : Byte) (s : State) :
    hostWrite addr v s = .next (s.mapBlock (Block.whenReady (writeEffect addr v))) := by
  have hid : s.mapBlock (Block.whenReady id) = s := by
    cases ho : s.block.opst <;> simp [State.mapBlock, Block.whenReady, ho]
  unfold hostWrite writeEffect
  split <;> simp_all only
  all_goals first
    | rfl
    | (unfold writeCmd; split <;> simp_all [exec_eq_command, badCommand, command])

/-- All a step can do: idle, a read, a write, a reset. -/
theorem step_cases (s : State) :
    (s.script = [] ∧ step s = .next s) ∨
    (∃ addr rest, s.script = .read addr :: rest ∧
      step s = .next { s with script := rest, replies := hostRead s.block addr :: s.replies }) ∨
    (∃ addr v rest, s.script = .write addr v :: rest ∧
      step s = .next { s with script := rest, block := s.block.whenReady (writeEffect addr v) }) ∨
    (∃ rest, s.script = .reset :: rest ∧ step s = .next { s with script := rest, block := Block.reset }) := by
  unfold step stepTransaction
  split
  · exact .inl ⟨‹_›, rfl⟩
  · rename_i t rest hs
    cases t with
    | read addr => exact .inr (.inl ⟨addr, rest, hs, rfl⟩)
    | write addr v => exact .inr (.inr (.inl ⟨addr, v, rest, hs, hostWrite_eq addr v _⟩))
    | reset => exact .inr (.inr (.inr ⟨rest, hs, rfl⟩))

@[simp] theorem target_cmd : target 0x000 = .cmd := rfl

/-- A write of a command's code to CMD runs the command. -/
theorem step_command {s : State} {v : Byte} {rest : List Transaction} {i : Instr}
    (hs : s.script = .write 0x000 v :: rest) (hd : decode v = .ok i) :
    step s = exec i { s with script := rest } := by
  simp only [step, stepTransaction, hs, transact, hostWrite, target_cmd, writeCmd, hd]

end Sys2Proof.Machine
end

