-- ==== Sys2Proof/Laws/Gf256.lean ====
section
/-! SUPPORT. The printed tables are the generated ones, EXP and LOG are inverse to each other, and their ranges
(40_gf256_tables.md R122 to R127), for the default field parameters by evaluation and for the others from the conditions
of WellFormed. -/

namespace Sys2Proof.Machine

/-! ### The printed tables are the generated ones -/

theorem expPrinted_eq : ∀ e, e < 256 → expPrinted e = gfPow Config.params e := by decide +kernel

theorem logPrinted_eq : ∀ v : Byte, v ≠ 0x00 → logPrinted v = (powers Config.params).idxOf v := by decide +kernel

/-- GEN is the product of the fifteen linear factors (R126). -/
theorem genRom_eq : genRom = generatorPoly Config.params 15 := by decide +kernel

theorem genLogRom_eq :
    genLogRom = (generatorPoly Config.params 15).map fun c => (powers Config.params).idxOf c := by decide +kernel

/-- Parameters with the default field parameters generate the same powers and the same polynomial. -/
theorem field_congr {p q : Config.Params} (hp : p.gfPrim = q.gfPrim) (ha : p.gfAlpha = q.gfAlpha)
    (hr : p.genFirstRoot = q.genFirstRoot) :
    gfPow p = gfPow q ∧ powers p = powers q ∧ generatorPoly p = generatorPoly q := by
  have hpow : gfPow p = gfPow q := by
    funext e; induction e with
    | zero => rfl
    | succ e ih => rw [gfPow, gfPow, ih, hp, ha]
  have hfrom : ∀ n v, powersFrom p n v = powersFrom q n v := by
    intro n; induction n with
    | zero => exact fun _ => rfl
    | succ n ih => intro v; rw [powersFrom, powersFrom, ih, hp, ha]
  refine ⟨hpow, hfrom _ _, ?_⟩
  funext n; induction n with
  | zero => rfl
  | succ n ih => rw [generatorPoly, generatorPoly, mulLinear, mulLinear, ih, hpow, hr, hp]

theorem field_eq_default {p : Config.Params} (h : hasPrintedTables p = true) :
    gfPow p = gfPow Config.params ∧ powers p = powers Config.params ∧
      generatorPoly p = generatorPoly Config.params := by
  simp only [hasPrintedTables, Bool.and_eq_true, beq_iff_eq] at h
  exact field_congr h.1.1 h.1.2 h.2

/-- EXP is the table of the powers of alpha (R122), whatever the parameters. -/
theorem expAt_eq_gfPow (p : Config.Params) {e : Nat} (he : e < 256) : expAt p e = gfPow p e := by
  unfold expAt; split
  · rw [expPrinted_eq e he, (field_eq_default (p := p) ‹_›).1]
  · rfl

/-- LOG is the place of a byte among the powers of alpha (R123), whatever the parameters. -/
theorem logAt_eq_idxOf (p : Config.Params) (v : Byte) (h : v ≠ 0x00) : logAt p v h = (powers p).idxOf v := by
  unfold logAt; split
  · rw [logPrinted_eq v h, (field_eq_default (p := p) ‹_›).2.1]
  · rfl

/-- GEN is the product of the fifteen linear factors (R126), whatever the parameters. -/
theorem genTable_eq (p : Config.Params) : genTable p = generatorPoly p 15 := by
  unfold genTable; split
  · rw [genRom_eq, (field_eq_default (p := p) ‹_›).2.2]
  · rfl

theorem genLogTable_eq (p : Config.Params) :
    genLogTable p = (generatorPoly p 15).map fun c => (powers p).idxOf c := by
  unfold genLogTable; split
  · rw [genLogRom_eq, (field_eq_default (p := p) ‹_›).2.1, (field_eq_default (p := p) ‹_›).2.2]
  · rfl

/-! ### The shapes of the generated tables -/

@[simp] theorem length_powersFrom (p : Config.Params) (n : Nat) (v : Byte) : (powersFrom p n v).length = n := by
  induction n generalizing v with
  | zero => rfl
  | succ n ih => simp [powersFrom, ih]

@[simp] theorem length_powers (p : Config.Params) : (powers p).length = 255 := length_powersFrom ..

theorem getElem?_powersFrom (p : Config.Params) {n i k : Nat} (hi : i < n) :
    (powersFrom p n (gfPow p k))[i]? = some (gfPow p (k + i)) := by
  induction n generalizing i k with
  | zero => omega
  | succ n ih =>
    cases i with
    | zero => rfl
    | succ i =>
      have := ih (i := i) (k := k + 1) (by omega)
      simpa [powersFrom, gfPow, show k + 1 + i = k + (i + 1) by omega] using this

/-- Entry e of the list of powers is alpha^e. -/
theorem getElem?_powers (p : Config.Params) {e : Nat} (he : e < 255) : (powers p)[e]? = some (gfPow p e) := by
  simpa [powers, gfPow] using getElem?_powersFrom p (k := 0) he

@[simp] theorem length_generatorPoly (p : Config.Params) (n : Nat) : (generatorPoly p n).length = n + 1 := by
  induction n with
  | zero => rfl
  | succ n ih => simp [generatorPoly, mulLinear, ih]

@[simp] theorem length_genTable (p : Config.Params) : (genTable p).length = 16 := by
  rw [genTable_eq, length_generatorPoly]

@[simp] theorem length_genLogTable (p : Config.Params) : (genLogTable p).length = 16 := by
  rw [genLogTable_eq, List.length_map, length_generatorPoly]

theorem genLogAt_eq_idxOf (p : Config.Params) {j : Nat} (hj : j < 16) :
    genLogAt p j = (powers p).idxOf (genAt p j) := by
  have hg : j < (generatorPoly p 15).length := by simpa using hj
  simp [genLogAt, genAt, genTable_eq, genLogTable_eq, List.getD, List.getElem?_eq_getElem hg]

/-! ### What admissible field parameters give (WellFormed) -/

/-- The default field parameters are admissible. -/
theorem fieldOk_default : Config.params.fieldOk = true := by decide +kernel

section FieldOk
variable {p : Config.Params} (ok : p.fieldOk = true)
include ok

theorem powers_perm : (powers p).Perm ((List.range 255).map fun k => BitVec.ofNat 8 (k + 1)) := by
  simp only [Config.Params.fieldOk, alphaPrimitive, Bool.and_eq_true] at ok
  exact List.isPerm_iff.1 ok.1.2

theorem powers_nodup : (powers p).Nodup :=
  (powers_perm ok).nodup_iff.2 (by decide +kernel)

theorem mem_powers {v : Byte} : v ∈ powers p ↔ v ≠ 0x00 := by
  have all : ∀ v : Byte, v ∈ ((List.range 255).map fun k => BitVec.ofNat 8 (k + 1)) ↔ v ≠ 0x00 := by decide +kernel
  rw [(powers_perm ok).mem_iff, all v]

theorem logAt_lt (v : Byte) (h : v ≠ 0x00) : logAt p v h < 255 := by
  rw [logAt_eq_idxOf, ← length_powers p]
  exact List.idxOf_lt_length_of_mem ((mem_powers ok).2 h)

/-- EXP[LOG[v]] = v (R123). -/
theorem expAt_logAt (v : Byte) (h : v ≠ 0x00) : expAt p (logAt p v h) = v := by
  have hlt := logAt_lt ok v h
  rw [expAt_eq_gfPow p (by omega), ← Option.some_inj, ← getElem?_powers p hlt, logAt_eq_idxOf]
  exact List.getElem?_idxOf ((mem_powers ok).2 h)

theorem expAt_ne_zero {e : Nat} (he : e < 255) : expAt p e ≠ 0x00 := by
  rw [expAt_eq_gfPow p (by omega)]
  exact (mem_powers ok).1 (List.mem_of_getElem? (getElem?_powers p he))

/-- LOG[EXP[e]] = e (R123). -/
theorem logAt_expAt {e : Nat} (he : e < 255) : logAt p (expAt p e) (expAt_ne_zero ok he) = e := by
  have hlt : e < (powers p).length := by simpa using he
  have hget : (powers p)[e] = expAt p e := by
    rw [expAt_eq_gfPow p (by omega), ← Option.some_inj, ← List.getElem?_eq_getElem hlt, getElem?_powers p he]
  rw [logAt_eq_idxOf, ← hget]
  exact (powers_nodup ok).idxOf_getElem e hlt

theorem genAt_ne_zero {j : Nat} (hj : j < 16) : genAt p j ≠ 0x00 := by
  simp only [Config.Params.fieldOk, genNonzero, Bool.and_eq_true, List.all_eq_true, bne_iff_ne] at ok
  have hg : j < (generatorPoly p 15).length := by simpa using hj
  rw [genAt, genTable_eq, List.getD_eq_getElem _ _ hg]
  exact ok.2 _ (List.getElem_mem hg)

/-- GEN_LOG[j] = LOG[GEN[j]] (R127). -/
theorem genLogAt_eq {j : Nat} (hj : j < 16) : genLogAt p j = logAt p (genAt p j) (genAt_ne_zero ok hj) := by
  rw [genLogAt_eq_idxOf p hj, logAt_eq_idxOf]

end FieldOk

/-! ### Products -/

/-- A product of non-zero elements is the antilog of the sum of the logarithms, reduced mod 255 (R124). -/
theorem gfMul_of_ne (p : Config.Params) {a b : Byte} (ha : a ≠ 0x00) (hb : b ≠ 0x00) :
    gfMul p a b = expAt p ((logAt p a ha + logAt p b hb) % 255) := by rw [gfMul, dif_neg ha, dif_neg hb]

@[simp] theorem gfMul_zero_left (p : Config.Params) (b : Byte) : gfMul p 0x00 b = 0x00 := by rw [gfMul, dif_pos rfl]

@[simp] theorem gfMul_zero_right (p : Config.Params) (a : Byte) : gfMul p a 0x00 = 0x00 := by
  unfold gfMul; split
  · rfl
  · rfl

/-- The product is commutative, whatever the parameters (R124). -/
theorem gfMul_comm (p : Config.Params) (a b : Byte) : gfMul p a b = gfMul p b a := by
  by_cases ha : a = 0x00
  · rw [ha, gfMul_zero_left, gfMul_zero_right]
  · by_cases hb : b = 0x00
    · rw [hb, gfMul_zero_left, gfMul_zero_right]
    · rw [gfMul_of_ne p ha hb, gfMul_of_ne p hb ha, Nat.add_comm]

/-- The terms of the division are products with the generator's coefficients (42_reed_solomon.md R173). -/
theorem term_eq_gfMul {p : Config.Params} (ok : p.fieldOk = true) {j : Nat} (hj : j < 16) (lead : Byte)
    (h : lead ≠ 0x00) : expAt p ((genLogAt p j + logAt p lead h) % 255) = gfMul p (genAt p j) lead := by
  rw [gfMul_of_ne p (genAt_ne_zero ok hj) h, genLogAt_eq ok hj]

end Sys2Proof.Machine
end

