-- ==== Sys2Proof/Laws/PerInstr.lean ====
section
/-! SUPPORT. The per-instruction family RoundTrip: the command byte of an instruction is well formed and decodes to it
(30_encoding.md R90, R91). -/

namespace Sys2Proof.Laws.RoundTrip

/-- The instruction is well formed, its byte is one of the eight codes, and the byte decodes to it. -/
def Statement (i : Instr) : Prop :=
  i.wellFormed = true ∧ codeWellFormed (encode i) = true ∧ decode (encode i) = .ok i

theorem nop : Statement .nop := ⟨rfl, rfl, rfl⟩
theorem clr : Statement .clr := ⟨rfl, rfl, rfl⟩
theorem bsenc : Statement .bsenc := ⟨rfl, rfl, rfl⟩
theorem rsenc : Statement .rsenc := ⟨rfl, rfl, rfl⟩
theorem zzinit : Statement .zzinit := ⟨rfl, rfl, rfl⟩
theorem zznext : Statement .zznext := ⟨rfl, rfl, rfl⟩
theorem gclr : Statement .gclr := ⟨rfl, rfl, rfl⟩
theorem place : Statement .place := ⟨rfl, rfl, rfl⟩

end Sys2Proof.Laws.RoundTrip
end

