-- ==== Sys2Proof/Laws/Zigzag.lean ====
section
/-! SUPPORT. The traversal is the closed form of 43_zigzag_placement.md R210: where it starts, each advance, where it
ends, and that every coordinate is a cell of the grid outside column 6. -/

namespace Sys2Proof.Machine

theorem cursorAt_zero : cursorAt 0 = Cursor.start := by decide

theorem cursorAt_end : cursorAt 812 = { zx := 0, zy := 28, up := true, hnext := true, zv := false } := by decide

theorem advance_cursorAt : ∀ n, n < 812 → (cursorAt n).advance = cursorAt (n + 1) := by decide +kernel

theorem cursorAt_zv (n : Nat) : (cursorAt n).zv = decide (n < 812) := by
  unfold cursorAt; split <;> simp_all

theorem coordAt_bounds : ∀ n, n < 812 → (coordAt n).1 < 29 ∧ (coordAt n).2 < 29 ∧ (coordAt n).1 ≠ 6 := by
  decide +kernel

theorem cursorAt_coord : ∀ n, n < 812 → ((cursorAt n).zx.toNat, (cursorAt n).zy.toNat) = coordAt n := by
  decide +kernel

theorem cursorAt_bounds (n : Nat) : (cursorAt n).zx.toNat ≤ 28 ∧ (cursorAt n).zy.toNat ≤ 28 := by
  by_cases h : n < 812
  · have hc := cursorAt_coord n h
    have hb := coordAt_bounds n h
    rw [← hc] at hb
    exact ⟨by omega, by omega⟩
  · rw [cursorAt, if_neg (by simpa using h)]; decide

/-- The coordinates a cursor of the traversal still yields. -/
theorem yields_cursorAt (k n : Nat) (h : n + k = 813) :
    (cursorAt n).yields k = ((List.range (812 - n)).map fun i => coordAt (n + i)) := by
  induction k generalizing n with
  | zero => simp [Cursor.yields, show 812 - n = 0 by omega]
  | succ k ih =>
    by_cases hn : n < 812
    · rw [Cursor.yields, cursorAt_zv, if_pos (by simpa using hn), advance_cursorAt n hn, ih (n + 1) (by omega),
        show 812 - n = (812 - (n + 1)) + 1 by omega, List.range_succ_eq_map, List.map_cons, List.map_map,
        cursorAt_coord n hn]
      simp [Function.comp_def, Nat.add_assoc, Nat.add_comm 1]
    · simp [Cursor.yields, cursorAt_zv, hn, show 812 - n = 0 by omega]

/-- All ZZNEXT can do to a READY block: yield and advance, or report the end. -/
theorem nextCoord_cases (b : Block) :
    (b.cursor.zv = true ∧ b.nextCoord =
      { b with cx := b.cursor.zx, cy := b.cursor.zy, cov := true, cursor := b.cursor.advance, err := 0x00 }) ∨
    (b.cursor.zv = false ∧ b.nextCoord = { b with cov := false, err := 0x00 }) := by
  unfold Block.nextCoord
  by_cases hz : b.cursor.zv = true
  · exact .inl ⟨hz, by rw [if_pos hz]; rfl⟩
  · exact .inr ⟨by simpa using hz, by rw [if_neg hz]; rfl⟩

end Sys2Proof.Machine
end

