-- ==== Sys2Proof/Laws/Placement.lean ====
section
/-! SUPPORT. What one pass of PLACE's loop can do, and how far the loop goes (43_zigzag_placement.md R213, R217; R290). -/

namespace Sys2Proof.Machine

/-- All one pass can do: skip, raise F_COUNT, raise F_OVERWRITE, or write one cell. -/
theorem placeVisit_cases (p : Config.Params) (b : Block) :
    let x := b.cursor.zx.toNat
    let y := b.cursor.zy.toNat
    ((b.cell x y).isFun = true ∧ placeVisit p b = (b.yieldCoord, none)) ∨
    ((b.cell x y).isFun = false ∧ slen p ≤ b.spos.toNat ∧ placeVisit p b = (b.yieldCoord, some .count)) ∨
    (b.spos.toNat < slen p ∧ (∃ d, b.cell x y = .data d) ∧ placeVisit p b = (b.yieldCoord, some .overwrite)) ∨
    (b.spos.toNat < slen p ∧ b.cell x y = .unknown ∧ placeVisit p b =
      ({ b.yieldCoord with
          grid := b.grid.set (cellIndex x y) (Module.data (b.streamBit b.spos.toNat)).code
          spos := b.spos + 1 }, none)) := by
  intro x y
  have hbit : ∀ k, b.yieldCoord.streamBit k = b.streamBit k := fun _ => rfl
  unfold placeVisit
  simp only [Block.yieldCoord_spos, hbit, show b.cell b.cursor.zx.toNat b.cursor.zy.toNat = b.cell x y from rfl]
  rcases hm : b.cell x y with _ | _ | d | d
  all_goals by_cases hs : slen p ≤ b.spos.toNat
  · exact .inr (.inl ⟨rfl, hs, by simp [Module.isFun, hs]⟩)
  · refine .inr (.inr (.inr ⟨by omega, rfl, ?_⟩))
    simp only [Module.isFun, hs, if_false]
    rfl
  · exact .inl ⟨rfl, by simp [Module.isFun]⟩
  · exact .inl ⟨rfl, by simp [Module.isFun]⟩
  · exact .inl ⟨rfl, by simp [Module.isFun]⟩
  · exact .inl ⟨rfl, by simp [Module.isFun]⟩
  · exact .inr (.inl ⟨rfl, hs, by simp [Module.isFun, hs]⟩)
  · exact .inr (.inr (.inl ⟨by omega, ⟨d, rfl⟩, by simp [Module.isFun, hs]⟩))

/-- The loop keeps everything PLACE does not write. -/
theorem placeLoop_keeps (p : Config.Params) (passes : Nat) (b : Block) :
    (placeLoop p passes b).1 =
      { b with
        grid := (placeLoop p passes b).1.grid, spos := (placeLoop p passes b).1.spos
        cursor := (placeLoop p passes b).1.cursor, cx := (placeLoop p passes b).1.cx
        cy := (placeLoop p passes b).1.cy, cov := (placeLoop p passes b).1.cov } := by
  induction passes generalizing b with
  | zero => rfl
  | succ n ih =>
    rw [placeLoop]
    by_cases hz : b.cursor.zv = true
    · rw [if_pos hz]
      rcases placeVisit_cases p b with ⟨_, h⟩ | ⟨_, _, h⟩ | ⟨_, _, h⟩ | ⟨_, _, h⟩
      all_goals rw [h]
      · exact ih _
      · rfl
      · rfl
      · exact ih _
    · rw [if_neg hz]

/-- From the n-th coordinate, the passes that are left end the traversal unless a fault ends it first: the loop's bound
cuts nothing off (R210, R290). -/
theorem placeLoop_ends (p : Config.Params) (passes n : Nat) (b : Block) (hc : b.cursor = cursorAt n)
    (hn : n + passes = 812) (hf : (placeLoop p passes b).2 = none) :
    (placeLoop p passes b).1.cursor = cursorAt 812 := by
  induction passes generalizing b n with
  | zero => simpa [placeLoop, show n = 812 by omega] using hc
  | succ k ih =>
    have hlt : n < 812 := by omega
    have hz : b.cursor.zv = true := by rw [hc, cursorAt_zv]; simpa using hlt
    have hadv : b.cursor.advance = cursorAt (n + 1) := by rw [hc, advance_cursorAt n hlt]
    rw [placeLoop, if_pos hz] at hf ⊢
    rcases placeVisit_cases p b with ⟨_, h⟩ | ⟨_, _, h⟩ | ⟨_, _, h⟩ | ⟨_, _, h⟩
    all_goals rw [h] at hf ⊢
    · exact ih (n + 1) _ hadv (by omega) hf
    · simp at hf
    · simp at hf
    · exact ih (n + 1) _ hadv (by omega) hf

/-- All PLACE can do to a READY block: the error, a fault of its loop, the count fault at the end, or success. -/
theorem placeStream_cases (p : Config.Params) (b : Block) :
    (b.cv = false ∧ b.placeStream p = b.raiseError .seq) ∨
    (∃ b' f, b.cv = true ∧ placeLoop p Config.numCoords b.placeStart = (b', some f) ∧ b.placeStream p = b'.raiseFault f) ∨
    (∃ b', b.cv = true ∧ placeLoop p Config.numCoords b.placeStart = (b', none) ∧ b'.spos.toNat ≠ slen p ∧
      b.placeStream p = b'.raiseFault .count) ∨
    (∃ b', b.cv = true ∧ placeLoop p Config.numCoords b.placeStart = (b', none) ∧ b'.spos.toNat = slen p ∧
      b.placeStream p = { b' with pv := true, err := 0x00 }) := by
  unfold Block.placeStream
  by_cases hc : b.cv = true
  · rw [if_pos hc]
    generalize placeLoop p Config.numCoords b.placeStart = r
    rcases r with ⟨b', _ | f⟩
    · by_cases hs : b'.spos.toNat = slen p
      · exact .inr (.inr (.inr ⟨b', hc, rfl, hs, by simp only [hs, ne_eq, not_true_eq_false, if_false]; rfl⟩))
      · exact .inr (.inr (.inl ⟨b', hc, rfl, hs, by simp only [hs, ne_eq, not_false_eq_true, if_true]⟩))
    · exact .inr (.inl ⟨b', f, hc, rfl, rfl⟩)
  · exact .inl ⟨by simpa using hc, by rw [if_neg hc]⟩

end Sys2Proof.Machine
end

