-- ==== Sys2Proof/Laws/ReedSolomon.lean ====
section
/-! SUPPORT. The shape of the division: the window keeps its length, an iteration with a zero lead does nothing, and one
with a non-zero lead XORs the scaled generator in (42_reed_solomon.md R173 to R175). -/

namespace Sys2Proof.Machine

@[simp] theorem length_xorInto (vs ts : List Byte) : (xorInto vs ts).length = vs.length := by
  induction vs generalizing ts with
  | nil => cases ts <;> rfl
  | cons v vs ih => cases ts <;> simp [xorInto, ih]

theorem getD_xorInto {vs : List Byte} (ts : List Byte) {c : Nat} (hc : c < vs.length) :
    (xorInto vs ts).getD c 0x00 = vs.getD c 0x00 ^^^ ts.getD c 0x00 := by
  induction vs generalizing ts c with
  | nil => simp at hc
  | cons v vs ih =>
    cases ts with
    | nil => simp [xorInto]
    | cons t ts =>
      cases c with
      | zero => simp [xorInto]
      | succ c => simpa [xorInto] using ih ts (by simpa using hc)

theorem getD_scaledTerms {p : Config.Params} (ok : p.fieldOk = true) (lead : Byte) (h : lead ≠ 0x00) (j : Nat) :
    (scaledTerms p lead h).getD j 0x00 = if j < 16 then gfMul p (genAt p j) lead else 0x00 := by
  by_cases hj : j < 16
  · rw [if_pos hj, ← term_eq_gfMul ok hj lead h]
    have hlen : j < (genLogTable p).length := by simpa using hj
    simp [scaledTerms, genLogAt, List.getD, List.getElem?_eq_getElem hlen]
  · simp [scaledTerms, List.getD, hj]

@[simp] theorem length_divStep (p : Config.Params) (w : List Byte) (i : Nat) : (divStep p w i).length = w.length := by
  unfold divStep; dsimp only; split
  · rfl
  · simp; omega

theorem divWindow_zero (p : Config.Params) (d : List Byte) : divWindow p d 0 = d ++ List.replicate 15 0x00 := rfl

theorem divWindow_succ (p : Config.Params) (d : List Byte) (n : Nat) :
    divWindow p d (n + 1) = divStep p (divWindow p d n) n := by
  simp [divWindow, List.range_succ, List.foldl_append]

@[simp] theorem length_divWindow (p : Config.Params) (d : List Byte) (n : Nat) : (divWindow p d n).length = d.length + 15 := by
  induction n with
  | zero => simp [divWindow_zero]
  | succ n ih => rw [divWindow_succ, length_divStep, ih]

theorem length_rsEc (p : Config.Params) {d : List Byte} (hd : d.length = 55) : (rsEc p d).length = 15 := by
  simp [rsEc, hd, Config.dataLen]

/-- An iteration whose leading coefficient is zero does nothing (R174). -/
theorem divStep_of_zero (p : Config.Params) {w : List Byte} {i : Nat} (h : w.getD i 0x00 = 0x00) :
    divStep p w i = w := by
  unfold divStep; dsimp only; rw [dif_pos h]

/-- One entry of the window after an iteration (R173), the scaled generator written as products. -/
theorem getD_divStep {p : Config.Params} (ok : p.fieldOk = true) {w : List Byte} {i c : Nat} (hc : c < w.length) :
    (divStep p w i).getD c 0x00 =
      if i ≤ c ∧ c ≤ i + 15 then w.getD c 0x00 ^^^ gfMul p (genAt p (c - i)) (w.getD i 0x00)
      else w.getD c 0x00 := by
  have hx : ∀ v : Byte, v ^^^ 0x00 = v := fun _ => BitVec.xor_zero
  unfold divStep
  dsimp only
  by_cases h : w.getD i 0x00 = 0x00
  · rw [dif_pos h, h, gfMul_zero_right, hx, ite_self]
  · rw [dif_neg h]
    by_cases hic : i ≤ c
    · have hlen : (w.take i).length = i := by simp; omega
      have hd : (w.take i ++ xorInto (w.drop i) (scaledTerms p _ h)).getD c 0x00 =
          (xorInto (w.drop i) (scaledTerms p _ h)).getD (c - i) 0x00 := by
        rw [List.getD_append_right _ _ _ _ (by omega), hlen]
      have hdrop : (w.drop i).getD (c - i) 0x00 = w.getD c 0x00 := by
        simp [List.getD, show i + (c - i) = c by omega]
      rw [hd, getD_xorInto _ (by simp; omega), hdrop, getD_scaledTerms ok]
      by_cases h16 : c - i < 16
      · rw [if_pos h16, if_pos ⟨hic, by omega⟩]
      · rw [if_neg h16, hx, if_neg (by omega)]
    · rw [if_neg (by omega), List.getD_append _ _ _ _ (by simp; omega)]
      simp [List.getD, show c < i by omega]

/-- All RSENC can do to a READY block: the error, or the remainder. -/
theorem encodeEc_cases (p : Config.Params) (b : Block) :
    (b.dv = false ∧ b.encodeEc p = b.raiseError .seq) ∨
    (b.dv = true ∧ b.encodeEc p = { b with cw := b.cw.setRange 55 (rsEc p b.dataWords), cv := true, err := 0x00 }) := by
  unfold Block.encodeEc
  by_cases hd : b.dv = true
  · exact .inr ⟨hd, by rw [if_pos hd, Block.succeed]⟩
  · exact .inl ⟨by simpa using hd, by rw [if_neg hd]⟩

end Sys2Proof.Machine
end

