-- ==== Sys2Proof/Tests/Slice0.lean ====
section
/-! SUPPORT. The model's own tests: the checks refuse ill-formed terms, each command's byte decodes, one step per
command against the vectors of 95_test_vectors.md, and for every statement with hypotheses a witness that meets them. -/

namespace Sys2Proof.Machine.Tests

/-! ### Helpers -/

/-- The machine after reset with its block changed and one host script. -/
def at_ (f : Block → Block) (script : List Transaction := []) : State :=
  { State.reset with block := f Block.reset, script := script }

/-- Look at the next state of an outcome. -/
def nextIs (o : Host.Outcome State Fault Refusal) (look : State → Bool) : Bool :=
  match o with
  | .next t => look t
  | .fault _ => false
  | .refused _ => false

/-- A payload held in PAY. -/
def withPayload (pay : List Byte) (b : Block) : Block :=
  { b with pay := Memory.setRange [] 0 pay, plen := BitVec.ofNat 8 pay.length }

/-- The data codewords of vector B-4, payload "A". -/
def wordsB4 : List Byte :=
  [0x40, 0x14, 0x10] ++ (List.range 52).map fun k => if k % 2 = 0 then 0xEC else 0x11

/-- Function(light) in the columns left of `cols` of row 20 and in the whole rows from 21 to 28. -/
def functionRows (cols : Nat) : Memory :=
  ((List.range cols).map fun x => (32 * 20 + x, 0x04#8))
    ++ (List.range 8).flatMap (fun y => (List.range 29).map fun x => (32 * (21 + y) + x, 0x04#8))

def faulted (b : Block) : Block := { b with opst := .faulted, err := 0xFF, fcode := 0x01 }
def err1 (b : Block) : Block := { b with err := 0x01 }

/-! ### The checks refuse ill-formed terms -/

theorem test_wf_reserved_code_refused : codeWellFormed 0x7F = false := by decide
theorem test_wf_neighbour_code_refused : codeWellFormed 0x11 = false := by decide
theorem test_wf_remBits_refused : ({ remBits := 8 } : Config.Params).wellFormed = false := by decide
theorem test_wf_ccw_low_refused : ({ ccw := 5 } : Config.Params).wellFormed = false := by decide
theorem test_wf_ccw_high_refused : ({ ccw := 13 } : Config.Params).wellFormed = false := by decide
/-- 0x1D has no bit 8: no polynomial of degree 8. -/
theorem test_wf_gfPrim_low_refused : primOk { gfPrim := 0x1D } = false := by decide
theorem test_wf_gfPrim_high_refused : primOk { gfPrim := 0x21D } = false := by decide
/-- alpha^17 has order 15, so it is not primitive. -/
theorem test_wf_gfAlpha_refused : alphaPrimitive { gfAlpha := 0x98 } = false := by decide +kernel
/-- Its fifteen powers are all roots of x^15 + 1, which has zero coefficients. -/
theorem test_wf_generator_refused : genNonzero { gfAlpha := 0x98 } = false := by decide +kernel
theorem test_wf_field_refused : ({ gfAlpha := 0x98 } : Config.Params).wellFormed = false := by decide +kernel
theorem test_wf_defaults_accepted : Config.params.wellFormed = true := by decide +kernel
/-- Another field polynomial and another first root are admissible: 0x12D is primitive with alpha = x. -/
theorem test_wf_other_field_accepted : ({ gfPrim := 0x12D, genFirstRoot := 1 } : Config.Params).wellFormed = true := by
  decide +kernel
theorem test_wf_unsorted_memory_refused : Memory.wf [(5, 0x01), (3, 0x02)] = false := by decide
theorem test_wf_listed_default_refused : Memory.wf [(5, 0x00)] = false := by decide

/-! ### Decoding (30_encoding.md R90, R91): unit in bits 7:4, func in bits 3:0 -/

theorem test_decode_nop : decode 0b00000000#8 = .ok .nop := by decide
theorem test_decode_clr : decode 0b00000001#8 = .ok .clr := by decide
theorem test_decode_bsenc : decode 0b00010000#8 = .ok .bsenc := by decide
theorem test_decode_rsenc : decode 0b00100000#8 = .ok .rsenc := by decide
theorem test_decode_zzinit : decode 0b00110000#8 = .ok .zzinit := by decide
theorem test_decode_zznext : decode 0b00110001#8 = .ok .zznext := by decide
theorem test_decode_gclr : decode 0b01000000#8 = .ok .gclr := by decide
theorem test_decode_place : decode 0b01000001#8 = .ok .place := by decide
/-- Vector M-3: 0x7F is reserved. -/
theorem test_decode_reserved : decode 0x7F#8 = .error (.reservedCode 0x7F) := by decide
theorem test_decodeTableWord_place : decodeTableWord 8 0x41 = some .place := by decide
theorem test_withFetchWord_runs :
    nextIs (step (State.reset.withFetchWord 8 0x30)) (fun t => t.block.zflags == 0x07) = true := by decide

/-! ### One step per command -/

/-- R240's worked example: ERR = 0x01 before, STATUS = 0x00 after. -/
theorem test_nop_clears_err :
    nextIs (exec .nop (at_ err1)) (fun t => t.block.status == 0x00) = true := by decide

/-- R241's worked example: PLEN reads 0x00 after. -/
theorem test_clr_clears_plen :
    nextIs (exec .clr (at_ (withPayload [0x41, 0x42]))) (fun t => t.block == Block.reset) = true := by decide

/-- P-4: CLR is ignored in FAULTED. -/
theorem test_clr_ignored_in_faulted :
    nextIs (exec .clr (at_ faulted)) (fun t => t.block.status == 0x03) = true := by decide

/-- Vector B-4: payload "A". -/
theorem test_bsenc_B4 :
    nextIs (exec .bsenc (at_ (withPayload [0x41]))) (fun t => t.block.dataWords == wordsB4 && t.block.status == 0x04)
      = true := by decide +kernel

/-- Vector B-9: 54 bytes are too long. -/
theorem test_bsenc_too_long :
    nextIs (exec .bsenc (at_ (fun b => { b with plen := 54 }))) (fun t => t.block.err == 0x01 && !t.block.dv) = true := by
  decide

/-- Vector B-4: the error-correction codewords. -/
theorem test_rsenc_B4 :
    nextIs (exec .rsenc (at_ (fun b => { b with cw := Memory.setRange [] 0 wordsB4, dv := true })))
      (fun t => t.block.ecWords ==
        [0x93, 0xF8, 0x12, 0x41, 0x05, 0x0B, 0x86, 0x6F, 0xAB, 0xFA, 0xC5, 0x34, 0x0E, 0x2C, 0x19]) = true := by
  decide +kernel

/-- Vector B-10: payload " ", where the leading coefficient is zero at iteration 27. -/
theorem test_rsEc_zero_lead :
    rsEc Config.params ([0x40, 0x12, 0x00] ++ (List.range 52).map fun k => if k % 2 = 0 then 0xEC else 0x11) =
      [0xCB, 0x26, 0x55, 0xA8, 0x72, 0x5A, 0x91, 0x45, 0x07, 0xAD, 0xDE, 0x70, 0x5E, 0x07, 0xE3] := by decide +kernel

/-- Other field parameters reach the division: the message with only the last codeword 0x01 leaves their GEN[1..15]
(R182), here computed by shift and add outside the model. -/
theorem test_rsEc_other_field :
    rsEc { gfPrim := 0x12D, genFirstRoot := 1 } (List.replicate 54 0x00 ++ [0x01]) =
      [0x5D, 0xDF, 0x8B, 0x9F, 0x23, 0x91, 0xEA, 0xB0, 0x99, 0x58, 0xC9, 0x94, 0x21, 0x58, 0x74] := by decide +kernel

/-- Vector Z-1, row ZZINIT. -/
theorem test_zzinit_Z1 :
    nextIs (exec .zzinit State.reset)
      (fun t => t.block.cursor.zx == 0x1C && t.block.cursor.zy == 0x1C && t.block.zflags == 0x07) = true := by decide

/-- Vector Z-1, row "638th ZZNEXT": the reversal at (7,0) skips column 6. -/
theorem test_zznext_skips_column_six :
    nextIs (exec .zznext (at_ (fun b => { b with cursor := ⟨7, 0, true, false, true⟩ })))
      (fun t => t.block.cursor.zx == 0x05 && t.block.cursor.zy == 0x00 && t.block.zflags == 0x0D &&
        t.block.cx == 0x07) = true := by decide

/-- Vector Z-1, row "812th ZZNEXT": the last coordinate, and the sequence ends. -/
theorem test_zznext_ends :
    nextIs (exec .zznext (at_ (fun b => { b with cursor := ⟨0, 28, false, false, true⟩ })))
      (fun t => t.block.cursor.zx == 0x00 && t.block.cursor.zy == 0x1C && t.block.zflags == 0x0E &&
        t.block.cy == 0x1C) = true := by decide

/-- R242's worked example: STATUS 0x1C before, 0x0C after. -/
theorem test_gclr_clears :
    nextIs (exec .gclr (at_ (fun b => { b with dv := true, cv := true, pv := true, grid := [(0, 0x05)] })))
      (fun t => t.block.status == 0x0C && hostRead t.block 0x400 == 0x00) = true := by decide

/-- Vector P-5 with all codewords zero: 567 cells written, F_COUNT at (9,22). -/
theorem test_place_empty_grid_faults :
    nextIs (exec .place (at_ (fun b => { b with dv := true, cv := true })))
      (fun t => t.block.status == 0x0F && t.block.fcode == 0x01 && t.block.spos == 567 && t.block.cx == 9 &&
        t.block.cy == 22 && t.block.zflags == 0x0D && hostRead t.block 0x6C9 == 0x00 &&
        hostRead t.block 0x6CA == 0x06) = true := by decide +kernel

/-- Vector P-6e: a Data cell at (27,28), the second cell of the traversal. -/
theorem test_place_data_cell_faults :
    nextIs (exec .place (at_ (fun b => { b with dv := true, cv := true, grid := [(923, 0x06)] })))
      (fun t => t.block.fcode == 0x02 && t.block.spos == 1 && t.block.cx == 27 && t.block.cy == 28 &&
        hostRead t.block 0x79C == 0x06 && hostRead t.block 0x77C == 0x00) = true := by decide

/-! ### The bus -/

/-- Vector M-1: legalisation of a cell write. -/
theorem test_cell_write_legalised :
    ([0x01, 0x03, 0xFF, 0xFD, 0x0A, 0x12, 0x08].map legalise) = [0x00, 0x02, 0x07, 0x05, 0x02, 0x02, 0x00#8] := by decide

/-- Vector M-2: the hole at x = 29. -/
theorem test_hole_ignored :
    nextIs (step (at_ id [.write 0x41D 0x05])) (fun t => t.block == Block.reset) = true := by decide

/-- Vector M-3: a reserved code sets ERR to 0x05. -/
theorem test_bad_command :
    nextIs (step (at_ id [.write 0x000 0x7F])) (fun t => t.block.err == 0x05) = true := by decide

/-- Vector M-5: the counter saturates and the byte is dropped. -/
theorem test_push_saturates :
    nextIs (step (at_ (fun b => { b with plen := 255 }) [.write 0x005 0x41]))
      (fun t => t.block.plen == 255 && t.block.pay == []) = true := by decide

/-- P-1: PAY[0] is read at 0x100. -/
theorem test_read_pay :
    nextIs (step (at_ (withPayload [0x68]) [.read 0x100])) (fun t => t.replies == [0x68]) = true := by decide

/-- P-4: SPOS = 567 reads 0x37, 0x02. -/
theorem test_spos_split :
    hostRead { Block.reset with spos := 567 } 0x00B = 0x37 ∧ hostRead { Block.reset with spos := 567 } 0x00C = 0x02 := by
  decide

/-! ### Witnesses: for each statement with hypotheses, a state and operands that meet all of them -/

theorem witness_StepRunsDecodedCommand :
    (at_ id [.write 0x000 0x41]).script = .write 0x000 0x41 :: [] ∧ decode 0x41 = .ok .place := by decide

theorem witness_EveryStepAnswers :
    State.reset.script = [] ∧ State.reset.block.opst = .ready := by decide

theorem witness_ReservedCodeRaisesBadCmd :
    (at_ id [.write 0x000 0x42]).script = .write 0x000 0x42 :: [] ∧ (at_ id).block.opst = .ready ∧
    (0x42#8 : Byte) ∉ [0x00#8, 0x01#8, 0x10#8, 0x20#8, 0x30#8, 0x31#8, 0x40#8, 0x41#8] := by decide

theorem witness_HostReadLeavesBlock : (at_ id [.read 0xFFF]).script = .read 0xFFF :: [] := by decide

theorem witness_WindowsShowTheirMemories :
    hostRead { Block.reset with cw := [(69, 0x2F)], pay := [(63, 0x3F)], grid := [(32 * 28 + 28, 0x07)] } 0x0C5 = 0x2F ∧
    hostRead { Block.reset with cw := [(69, 0x2F)], pay := [(63, 0x3F)], grid := [(32 * 28 + 28, 0x07)] } 0x13F = 0x3F ∧
    hostRead { Block.reset with cw := [(69, 0x2F)], pay := [(63, 0x3F)], grid := [(32 * 28 + 28, 0x07)] } 0x79C = 0x07 := by
  decide

theorem witness_UnassignedAddressesAreInert_reserved :
    reservedAddr (0x00D : Addr).toNat ∧ reservedAddr (0x0C6 : Addr).toNat ∧ reservedAddr (0x140 : Addr).toNat ∧
    reservedAddr (0xFFF : Addr).toNat ∧ (at_ id [.write 0x0C6 0x05]).script = .write 0x0C6 0x05 :: [] := by
  simp [reservedAddr, at_]

theorem witness_UnassignedAddressesAreInert_readOnly :
    readOnlyAddr (0x004 : Addr).toNat ∧ readOnlyAddr (0x00C : Addr).toNat ∧ readOnlyAddr (0x0C5 : Addr).toNat ∧
    readOnlyAddr (0x13F : Addr).toNat ∧ (at_ id [.write 0x0C5 0xAA]).script = .write 0x0C5 0xAA :: [] := by
  simp [readOnlyAddr, at_]

theorem witness_GridWindowHolesAreInert :
    (29 < 32 ∧ 0 < 32 ∧ (28 < 29 ∨ 28 < 0)) ∧ (0 < 32 ∧ 29 < 32 ∧ (28 < 0 ∨ 28 < 29)) ∧
    (at_ id [.write 0x41D 0x05]).script = .write (BitVec.ofNat 12 (0x400 + 32 * 0 + 29)) 0x05 :: [] := by decide

theorem witness_FaultedBlockIgnoresWrites_write :
    (at_ faulted [.write 0x400 0x00]).block.opst = .faulted ∧
    (at_ faulted [.write 0x400 0x00]).script = .write 0x400 0x00 :: [] := by decide

theorem witness_FaultedBlockIgnoresWrites_read :
    (at_ faulted [.read 0x003]).block.opst = .faulted ∧ (at_ faulted [.read 0x003]).script = .read 0x003 :: [] ∧
    (0x003 : Addr) ≠ 0x001 := by decide

theorem witness_FaultedBlockIgnoresWrites_reset :
    (at_ faulted [.reset]).block.opst = .faulted ∧
    nextIs (step (at_ faulted [.reset])) (fun t => t.block.opst == .ready) = true := by decide

theorem witness_CellWriteIsLegalised :
    (at_ id [.write 0x79C 0xFF]).block.opst = .ready ∧ (at_ id).block.grid.wf = true ∧
    (at_ id [.write 0x79C 0xFF]).script = .write (BitVec.ofNat 12 (0x400 + 32 * 28 + 28)) 0xFF :: [] ∧
    (0xFF : Byte).getLsbD 2 = true ∧ (0x0A : Byte).getLsbD 2 = false := by decide

theorem witness_PayloadPushAppends :
    (at_ id [.write 0x005 0x41]).script = .write 0x005 0x41 :: [] ∧ (at_ id).block.opst = .ready ∧
    (at_ id).block.pay.wf = true ∧ (at_ (fun b => { b with plen := 63 })).block.plen.toNat < 64 ∧
    (at_ faulted).block.opst = .faulted := by decide

theorem witness_ResetAndClearGiveResetValues :
    (at_ faulted [.reset]).script = .reset :: [] ∧ (at_ err1).block.opst = .ready ∧
    (at_ faulted).block.opst = .faulted := by decide

theorem witness_NopClearsErrOnly : (at_ err1).block.opst = .ready := by decide

theorem witness_GclrClearsGridAndPv :
    (at_ (fun b => { b with pv := true, grid := [(923, 0x06)] })).block.opst = .ready ∧ 28 < 29 := by decide

theorem witness_ZzinitMakesFreshCursor : (at_ err1).block.opst = .ready := by decide

theorem witness_BsencStoresTheFrame_longest :
    (at_ (fun b => { b with plen := 53 })).block.opst = .ready ∧
    (at_ (fun b => { b with plen := 53 })).block.plen.toNat ≤ 53 ∧ (at_ id).block.cw.wf = true := by decide

theorem witness_BsencRefusesLongPayload_shortest :
    (at_ (fun b => { b with plen := 54 })).block.opst = .ready ∧
    54 ≤ (at_ (fun b => { b with plen := 54 })).block.plen.toNat := by decide

theorem witness_FrameFillsCapacityExactly :
    ({ ccw := 12 } : Config.Params).widthsOk = true ∧ 4 + 12 + 8 * (List.replicate 53 (0x55#8)).length ≤ 440 := by decide

theorem witness_PackedFrameKeepsEveryBit : (List.replicate 53 (0x55#8)).length ≤ 53 ∧ 54 < 55 ∧ 7 < 8 := by decide

theorem witness_RsencStoresRemainder :
    (at_ (fun b => { b with dv := true, cw := [(0, 0x40)] })).block.opst = .ready ∧
    (at_ (fun b => { b with dv := true, cw := [(0, 0x40)] })).block.dv = true ∧
    (at_ (fun b => { b with dv := true, cw := [(0, 0x40)] })).block.cw.wf = true := by decide

theorem witness_OutOfOrderCommandsRaiseSeq :
    (at_ id).block.opst = .ready ∧ (at_ id).block.dv = false ∧ (at_ id).block.cv = false := by decide

theorem witness_ExpAndLogTables : 254 < 255 ∧ (0x01#8) ≠ 0x00 ∧ (0xFF#8) ≠ 0x00 := by decide

theorem witness_GeneratorTables : 14 < 15 ∧ 15 < 16 ∧ genAt Config.params 15 ≠ 0x00 := by decide

theorem witness_FieldLawsHold : (0x8E#8) ≠ 0x00 := by decide

theorem witness_DivisionCancelsLeadingEntries : wordsB4.length = 55 ∧ 55 ≤ 55 ∧ 54 < 55 := by decide

theorem witness_DivisionEqualsShiftRegister : wordsB4.length = 55 := by decide

theorem witness_CodewordVanishesAtGeneratorRoots : wordsB4.length = 55 ∧ 14 < 15 := by decide

theorem witness_RsencFollowsTheFieldParameters :
    255 < 256 ∧ 254 < 255 ∧ 15 < 16 ∧ (0xFF#8) ≠ 0x00 ∧
    ({ gfPrim := 0x12D, genFirstRoot := 1 } : Config.Params).fieldOk = true ∧
    (at_ (fun b => { b with dv := true, cw := [(0, 0x40)] })).block.dv = true ∧
    (at_ (fun b => { b with dv := true, cw := [(0, 0x40)] })).block.cw.wf = true ∧ 14 < 15 ∧ (54 < 55 ∨ 70 ≤ 54) := by
  decide +kernel

theorem witness_RemainderIsLinear : wordsB4.length = 55 ∧ (List.replicate 55 (0xFF#8)).length = 55 := by decide

theorem witness_FinalStreamIsCodewordsThenZeros : 559 < 560 ∧ (560 ≤ 560 ∧ 566 < 567) := by decide

theorem witness_InterleavingIsColumnMajor :
    (∀ blk ∈ [([0x01#8, 0x02], [0x03#8]), ([0x04, 0x05], [0x06])], blk.1.length = 2 ∧ blk.2.length = 1) ∧
    1 < [([0x01#8, 0x02], [0x03#8]), ([0x04, 0x05], [0x06])].length := by decide

theorem witness_ColumnLeftStep :
    (⟨0, 28, true, true, true⟩ : Cursor).zx = 0 ∧ (⟨7, 0, true, false, true⟩ : Cursor).zx = 7 ∧
    ((⟨28, 28, true, true, true⟩ : Cursor).zx ≠ 0 ∧ (⟨28, 28, true, true, true⟩ : Cursor).zx ≠ 7) := by decide

theorem witness_AdvanceMovesTheCursor :
    (cursorAt 0).hnext = true ∧
    ((cursorAt 57).hnext = false ∧ (cursorAt 57).up = true ∧ (cursorAt 57).zy = 0) ∧
    ((cursorAt 115).hnext = false ∧ (cursorAt 115).up = false ∧ (cursorAt 115).zy = 28) ∧
    ((cursorAt 1).hnext = false ∧ (cursorAt 1).up = true ∧ (cursorAt 1).zy ≠ 0) ∧
    ((cursorAt 59).hnext = false ∧ (cursorAt 59).up = false ∧ (cursorAt 59).zy ≠ 28) := by decide

theorem witness_ZznextYieldsAndAdvances :
    (at_ (fun b => { b with cursor := Cursor.start })).block.opst = .ready ∧
    (at_ (fun b => { b with cursor := Cursor.start })).block.cursor.zv = true ∧
    (at_ id).block.cursor.zv = false := by decide

theorem witness_ZznextFollowsTheClosedForm :
    (at_ (fun b => { b with cursor := cursorAt 811 })).block.opst = .ready ∧ 811 < 812 ∧
    (at_ (fun b => { b with cursor := cursorAt 811 })).block.cursor = cursorAt 811 := by decide

theorem witness_TraversalIgnoresGridAndCodewords :
    (at_ (fun b => { b with cursor := Cursor.start })).block.opst = .ready ∧
    (at_ (fun b => { b with cursor := Cursor.start, grid := [(0, 0x05)], cw := [(0, 0x40)] })).block.opst = .ready ∧
    (at_ (fun b => { b with cursor := Cursor.start })).block.cursor =
      (at_ (fun b => { b with cursor := Cursor.start, grid := [(0, 0x05)], cw := [(0, 0x40)] })).block.cursor := by decide

/-- Every open cell of a grid is Unknown, as a check that can be evaluated. -/
def allUnknown (b : Block) : Bool := b.openCells.all fun c => b.cell c.1 c.2 == .unknown

theorem unknownBelow_of_allUnknown {b : Block} (h : allUnknown b = true) (m : Nat) : b.UnknownBelow m := by
  intro k c _ hc
  have := List.all_eq_true.1 h c (List.mem_of_getElem? hc)
  simpa using this

/-- 245 of the traversal's 812 cells are function cells, 567 are open. -/
def grid567 : State := at_ (fun b => { b with dv := true, cv := true, grid := functionRows 22 })

theorem grid567_open : grid567.block.openCells.length = 567 ∧ allUnknown grid567.block = true := by decide +kernel

theorem witness_PlaceFillsTheGrid :
    grid567.block.opst = .ready ∧ grid567.block.cv = true ∧ grid567.block.grid.wf = true ∧
    grid567.block.openCells.length = 567 ∧ grid567.block.UnknownBelow 567 :=
  ⟨rfl, rfl, by decide +kernel, grid567_open.1, unknownBelow_of_allUnknown grid567_open.2 567⟩

/-- No function cell: all 812 are open. -/
def gridEmpty : State := at_ (fun b => { b with dv := true, cv := true })

theorem gridEmpty_open : gridEmpty.block.openCells[567]? = some (coordAt 567) ∧ allUnknown gridEmpty.block = true := by
  decide +kernel

theorem witness_PlaceFaultsWhenBitsRunOut :
    gridEmpty.block.opst = .ready ∧ gridEmpty.block.cv = true ∧ gridEmpty.block.grid.wf = true ∧ 567 < 812 ∧
    gridEmpty.block.openCells[567]? = some (coordAt 567) ∧ gridEmpty.block.UnknownBelow 567 :=
  ⟨rfl, rfl, rfl, by decide, gridEmpty_open.1, unknownBelow_of_allUnknown gridEmpty_open.2 567⟩

/-- One function cell more than a fitting grid: 566 open cells. -/
def grid566 : State := at_ (fun b => { b with dv := true, cv := true, grid := functionRows 23 })

theorem grid566_open : grid566.block.openCells.length = 566 ∧ allUnknown grid566.block = true := by decide +kernel

theorem witness_PlaceFaultsWhenCellsRunOut :
    grid566.block.opst = .ready ∧ grid566.block.cv = true ∧ grid566.block.grid.wf = true ∧
    grid566.block.openCells.length < 567 ∧ grid566.block.UnknownBelow 567 :=
  ⟨rfl, rfl, by decide +kernel, by rw [grid566_open.1]; decide, unknownBelow_of_allUnknown grid566_open.2 567⟩

/-- A Data cell at (27, 28), as in vector P-6e. -/
def gridData : State := at_ (fun b => { b with dv := true, cv := true, grid := [(923, 0x06)] })

theorem witness_PlaceFaultsOnDataCell :
    gridData.block.opst = .ready ∧ gridData.block.cv = true ∧ gridData.block.grid.wf = true ∧ 1 < 567 ∧ 1 < 812 ∧
    gridData.block.openCells[1]? = some (coordAt 1) ∧
    gridData.block.cell (coordAt 1).1 (coordAt 1).2 = .data false ∧ gridData.block.UnknownBelow 1 := by
  have h0 : gridData.block.openCells[0]? = some (28, 28) := by decide +kernel
  refine ⟨rfl, rfl, by decide, by decide, by decide, by decide +kernel, by decide, fun k c hk hc => ?_⟩
  obtain rfl : k = 0 := by omega
  rw [h0] at hc
  cases hc
  decide

theorem witness_PlaceWritesUnknownCellsOnly :
    gridData.block.grid.wf = true ∧ nextIs (exec .place gridData) (fun _ => true) = true := by decide

theorem witness_ErringCommandChangesErrOnly :
    (at_ id [.write 0x000 0x20]).script = .write 0x000 0x20 :: [] ∧ (at_ id).block.opst = .ready ∧
    nextIs (step (at_ id [.write 0x000 0x20])) (fun t => t.block.opst == .ready && t.block.err != 0x00) = true := by decide

theorem witness_OnlyPlaceEntersFaulted :
    nextIs (step { gridData with script := [.write 0x000 0x41] })
      (fun t => gridData.block.opst == .ready && t.block.opst == .faulted) = true := by decide

theorem reset_inv : State.reset.block.Inv :=
  ⟨by decide, by decide, ⟨.inl rfl, by decide, by decide, by decide⟩, by decide, by decide⟩

theorem witness_EveryStepKeepsBlockInvariant :
    (at_ id [.write 0x000 0x30]).block.Inv ∧
    nextIs (step (at_ id [.write 0x000 0x30])) (fun t => t.block.cursor == Cursor.start) = true :=
  ⟨reset_inv, by decide⟩

theorem witness_EveryStepKeepsCodewordsValid :
    (at_ id [.write 0x000 0x10]).block.Inv ∧ (at_ id [.write 0x000 0x10]).block.CodewordsOk ∧
    nextIs (step (at_ id [.write 0x000 0x10])) (fun t => t.block.dv) = true :=
  ⟨reset_inv, ⟨fun h => (nomatch h), fun h => (nomatch h)⟩, by decide +kernel⟩

theorem witness_PayloadChangesOnlyByPushClearReset :
    nextIs (step (at_ id [.write 0x005 0x41])) (fun t => t.block.pay != []) = true := by decide

theorem witness_CodewordsChangeOnlyByTheirWriters :
    Block.reset.cw.wf = true ∧
    nextIs (step (at_ id [.write 0x000 0x10])) (fun t => t.block.cw.get 0 != Block.reset.cw.get 0) = true := by
  decide +kernel

theorem witness_ValidityFlagsChangeByNamedEvents :
    nextIs (step (at_ id [.write 0x000 0x10])) (fun t => t.block.dv && !(at_ id).block.dv) = true ∧
    nextIs (step (at_ (fun b => { b with dv := true, cv := true, pv := true }) [.write 0x000 0x01]))
      (fun t => !t.block.dv && !t.block.cv && !t.block.pv) = true ∧
    nextIs (step { grid567 with script := [.write 0x000 0x41] }) (fun t => t.block.pv) = true := by decide +kernel

theorem witness_OutcomeRegistersChangeByCommandOrReset :
    nextIs (step (at_ id [.write 0x000 0x7F])) (fun t => t.block.err != 0x00) = true ∧
    (at_ faulted [.reset]).block.opst = .faulted ∧
    nextIs (step (at_ faulted [.reset])) (fun t => t.block.fcode != (at_ faulted).block.fcode) = true := by decide

theorem witness_CursorChangesOnlyByTraversalCommands :
    nextIs (step (at_ id [.write 0x000 0x30])) (fun t => t.block.cursor != Block.reset.cursor) = true ∧
    nextIs (step { gridData with script := [.write 0x000 0x41] }) (fun t => t.block.spos != 0) = true := by decide

end Sys2Proof.Machine.Tests
end

section
/-! SUPPORT. The division and the 15-byte shift register of the same parameters leave the same remainder
(42_reed_solomon.md R173, R175, R181): after every iteration the window from the next lead on is the sequence not
divided yet with the register XORed in. -/

namespace Sys2Proof.Machine

/-! ### The shift register (R181) -/

@[simp] theorem length_lfsrStep (p : Config.Params) (r : List Byte) (v : Byte) : (lfsrStep p r v).length = 15 := by
  simp [lfsrStep]

theorem lfsr_append_singleton (p : Config.Params) (d : List Byte) (v : Byte) :
    lfsr p (d ++ [v]) = lfsrStep p (lfsr p d) v := by
  simp [lfsr, List.foldl_append]

@[simp] theorem length_lfsr (p : Config.Params) (d : List Byte) : (lfsr p d).length = 15 := by
  rcases List.eq_nil_or_concat d with rfl | ⟨d', v, rfl⟩
  · simp [lfsr]
  · rw [List.concat_eq_append, lfsr_append_singleton, length_lfsrStep]

/-- The last byte of the register takes the shift's zero, so all fifteen bytes follow the one equation. -/
theorem getD_lfsrStep (p : Config.Params) {r : List Byte} (hr : r.length = 15) (v : Byte) (k : Nat) :
    (lfsrStep p r v).getD k 0x00 =
      if k < 15 then r.getD (k + 1) 0x00 ^^^ gfMul p (v ^^^ r.getD 0 0x00) (genAt p (k + 1)) else 0x00 := by
  by_cases hk : k < 15
  · have hstep : (lfsrStep p r v).getD k 0x00 =
        if k < 14 then r.getD (k + 1) 0x00 ^^^ gfMul p (v ^^^ r.getD 0 0x00) (genAt p (k + 1))
        else gfMul p (v ^^^ r.getD 0 0x00) (genAt p 15) := by
      simp [lfsrStep, List.getD, hk]
    rw [hstep, if_pos hk]
    by_cases hk' : k < 14
    · rw [if_pos hk']
    · obtain rfl : k = 14 := by omega
      have hshift : r.getD 15 0x00 = 0x00#8 := List.getD_eq_default _ _ hr.le
      rw [if_neg hk', hshift, BitVec.zero_xor]
  · rw [if_neg hk, List.getD_eq_default _ _ (by simpa using hk)]

/-! ### The division runs the shift register -/

/-- After n iterations the register over the first n codewords stands XORed into the window from entry n on. -/
theorem getD_divWindow {p : Config.Params} (ok : p.fieldOk = true) {d : List Byte} {n : Nat} (hn : n ≤ d.length)
    {c : Nat} (hnc : n ≤ c) (hc : c < d.length + 15) :
    (divWindow p d n).getD c 0x00 =
      (d ++ List.replicate 15 0x00).getD c 0x00 ^^^ (lfsr p (d.take n)).getD (c - n) 0x00 := by
  induction n generalizing c with
  | zero =>
    have hzero : (lfsr p []).getD c 0x00 = 0x00#8 := List.getElem?_getD_replicate_default_eq ..
    rw [divWindow_zero, List.take_zero, Nat.sub_zero, hzero, BitVec.xor_zero]
  | succ n ih =>
    have hlead : (divWindow p d n).getD n 0x00 = d[n] ^^^ (lfsr p (d.take n)).getD 0 0x00 := by
      rw [ih (by omega) le_rfl (by omega), Nat.sub_self, List.getD_append _ _ _ _ hn, List.getD_eq_getElem _ _ hn]
    have hreg : lfsr p (d.take (n + 1)) = lfsrStep p (lfsr p (d.take n)) d[n] := by
      rw [← lfsr_append_singleton, List.take_append_getElem]
    rw [divWindow_succ, getD_divStep ok (by simpa using hc), ih (by omega) (by omega) hc, hlead, hreg,
      getD_lfsrStep p (length_lfsr p _), show c - (n + 1) + 1 = c - n by omega]
    by_cases hwin : c ≤ n + 15
    · rw [if_pos ⟨by omega, hwin⟩, if_pos (by omega), gfMul_comm, BitVec.xor_assoc]
    · rw [if_neg (by omega), if_neg (by omega), List.getD_eq_default (lfsr p _) _ (by rw [length_lfsr]; omega)]

/-- The remainder is what the shift register leaves (R181), for all admissible field parameters. -/
theorem rsEc_eq_lfsr {p : Config.Params} (ok : p.fieldOk = true) {d : List Byte} (hd : d.length = 55) :
    rsEc p d = lfsr p d := by
  refine List.ext_getElem (by rw [length_rsEc p hd, length_lfsr]) fun k hk hk' => ?_
  rw [length_lfsr] at hk'
  have hpad : (d ++ List.replicate 15 0x00).getD (55 + k) 0x00 = 0x00#8 :=
    (List.getD_append_right _ _ _ _ (by omega)).trans (List.getElem?_getD_replicate_default_eq ..)
  have hwin := getD_divWindow ok (d := d) hd.ge (c := 55 + k) (by omega) (by omega)
  rw [hpad, BitVec.zero_xor, Nat.add_sub_cancel_left, ← hd, List.take_length, hd] at hwin
  rw [← List.getD_eq_getElem _ 0x00, ← List.getD_eq_getElem _ 0x00, ← hwin]
  simp [rsEc, List.getD]

/-! ### RSENC's change of a block -/

@[simp] theorem Block.length_dataWords (b : Block) : b.dataWords.length = 55 := Memory.length_getRange ..

/-- RSENC with data codewords writes CW[55..69] and no other codeword, and sets CV and ERR (R170, R179), whatever the
parameters. -/
theorem encodeEc_stores_rsEc (p : Config.Params) {b : Block} (hdv : b.dv = true) (hcw : b.cw.wf = true) :
    ∃ m, b.encodeEc p = { b with cw := m, cv := true, err := 0x00 } ∧
      (∀ k, k < 15 → m.get (55 + k) = (rsEc p b.dataWords).getD k 0x00) ∧
      (∀ c, c < 55 ∨ 70 ≤ c → m.get c = b.cw.get c) := by
  have hlen : (rsEc p b.dataWords).length = 15 := length_rsEc p b.length_dataWords
  rcases encodeEc_cases p b with ⟨hdv', _⟩ | ⟨_, heq⟩
  · simp [hdv] at hdv'
  · refine ⟨_, heq, fun k hk => ?_, fun c hc => ?_⟩
    · rw [Memory.get_setRange hcw, if_pos (by omega), Nat.add_sub_cancel_left]
    · rw [Memory.get_setRange hcw, if_neg (by omega)]

/-- Settles O60: the tables by the laws of Laws/Gf256, and RSENC's remainder by the invariant of the division
`getD_divWindow`. -/
theorem rsencFollowsTheFieldParameters : Obligations.RsencFollowsTheFieldParameters := by
  refine ⟨fun p e he => expAt_eq_gfPow p he, genTable_eq, fun p ok => ⟨?_, ?_, ?_, ?_⟩⟩
  · exact fun v h => ⟨logAt_lt ok v h, expAt_logAt ok v h⟩
  · exact fun e he => ⟨expAt_ne_zero ok he, logAt_expAt ok he⟩
  · exact fun j hj => ⟨genAt_ne_zero ok hj, genLogAt_eq ok hj⟩
  · intro b hdv hcw
    rw [← rsEc_eq_lfsr ok b.length_dataWords]
    exact encodeEc_stores_rsEc p hdv hcw

end Sys2Proof.Machine
end

section
/-! SUPPORT. What a step does to the block, said once as `StepEffect`, and which of the host's transactions each kind of
change needs (10_state.md R22, 20_memory.md R62, R74). -/

namespace Sys2Proof.Machine

/-! ### The command byte -/

/-- A byte that decodes to a command is that command's code (30_encoding.md R91). -/
theorem eq_encode_of_decode {v : Byte} {i : Instr} (h : decode v = .ok i) : v = encode i := by
  unfold decode at h
  split at h <;> cases h <;> rfl

/-- An 8-bit word is its own command byte. -/
theorem commandByte_toNat (v : Byte) : commandByte 8 v.toNat = v := by
  rw [commandByte, Nat.mod_eq_of_lt v.isLt, BitVec.ofNat_toNat, BitVec.setWidth_eq]

theorem decode_encode (i : Instr) : decode (encode i) = .ok i := by cases i <;> rfl

/-- Settles O3, by the law of a write to CMD. -/
theorem stepRunsDecodedCommand : Obligations.StepRunsDecodedCommand := by
  intro s v rest i hs hd
  exact step_command hs hd

/-- Settles O4: the placed word is the command's own byte, and it stands at the head of the script. -/
theorem placedWordRunsNext : Obligations.PlacedWordRunsNext := by
  intro s i
  constructor
  · rw [decodeTableWord, commandByte_toNat, decode_encode]
  · rw [State.withFetchWord, commandByte_toNat]
    exact step_command (State.issueCommand_script ..) (decode_encode i)

/-! ### What a host write does -/

/-- The addresses of the two write ports, and the ranges of the cells (20_memory.md R62, R71). -/
theorem target_ports (a : Addr) :
    (target a = .cmd → a = 0x000) ∧ (target a = .pdata → a = 0x005) ∧
      (∀ x y, target a = .cell x y → x < 29 ∧ y < 29) := by
  rcases target_cases a with ⟨hlt, ht⟩ | ⟨i, -, -, ht⟩ | ⟨i, -, -, ht⟩ | ⟨x, y, hx, hy, -, ht⟩ | ⟨-, ht⟩
  all_goals rw [ht]
  · simp only [← BitVec.toNat_inj]
    interval_cases a.toNat <;> simp
  · simp
  · simp
  · exact ⟨nofun, nofun, fun _ _ h => by cases h; exact ⟨hx, hy⟩⟩
  · simp

/-- All a host write can do in READY: a command, the error of a reserved code, a push, a cell, or nothing. -/
theorem writeEffect_cases (a : Addr) (v : Byte) :
    (a = 0x000 ∧ ∃ i, v = encode i ∧ writeEffect a v = effect i) ∨
    (a = 0x000 ∧ writeEffect a v = Block.raiseError .badCmd) ∨
    (a = 0x005 ∧ writeEffect a v = Block.push v) ∨
    (∃ x y, x < 29 ∧ y < 29 ∧ writeEffect a v = Block.writeCell x y v) ∨
    writeEffect a v = id := by
  obtain ⟨hcmd, hpdata, hcell⟩ := target_ports a
  unfold writeEffect
  split
  · rename_i ht
    split
    · rename_i i hd
      exact .inl ⟨hcmd ht, i, eq_encode_of_decode hd, rfl⟩
    · exact .inr (.inl ⟨hcmd ht, rfl⟩)
  · rename_i ht
    exact .inr (.inr (.inl ⟨hpdata ht, rfl⟩))
  · rename_i x y ht
    obtain ⟨hx, hy⟩ := hcell x y ht
    exact .inr (.inr (.inr (.inl ⟨x, y, hx, hy, rfl⟩)))
  · exact .inr (.inr (.inr (.inr rfl)))

/-! ### What a step does to the block -/

/-- The block `b` is what a step from `s` may leave, each way with the transaction that it needs. -/
inductive StepEffect (s : State) (b : Block) : Prop
  | unchanged (hb : b = s.block)
  | reset (hr : s.Resets) (hb : b = Block.reset)
  | command (i : Instr) (hi : s.Issues (encode i)) (hb : b = effect i s.block)
  | badCommand (v : Byte) (hi : s.Issues v) (hb : b = s.block.raiseError .badCmd)
  | push (v : Byte) (rest : List Transaction) (ho : s.block.opst = .ready) (hs : s.script = .write 0x005 v :: rest)
      (hb : b = s.block.push v)
  | cellWrite (x y : Nat) (v : Byte) (ho : s.block.opst = .ready) (hx : x < 29) (hy : y < 29)
      (hb : b = s.block.writeCell x y v)

/-- Every step leaves one of the blocks of `StepEffect`. -/
theorem stepEffect_of_step {s t : State} (h : step s = .next t) : StepEffect s t.block := by
  rcases step_cases s with ⟨-, hst⟩ | ⟨a, rest, -, hst⟩ | ⟨a, v, rest, hs, hst⟩ | ⟨rest, hs, hst⟩
  all_goals rw [hst] at h; cases h
  · exact .unchanged rfl
  · exact .unchanged rfl
  · cases ho : s.block.opst with
    | faulted => exact .unchanged (Block.whenReady_faulted ho)
    | ready =>
      simp only [Block.whenReady_ready ho]
      rcases writeEffect_cases a v with ⟨rfl, i, rfl, he⟩ | ⟨rfl, he⟩ | ⟨rfl, he⟩ | ⟨x, y, hx, hy, he⟩ | he
      all_goals rw [he]
      · exact .command i ⟨ho, rest, hs⟩ rfl
      · exact .badCommand v ⟨ho, rest, hs⟩ rfl
      · exact .push v rest ho hs rfl
      · exact .cellWrite x y v ho hx hy rfl
      · exact .unchanged rfl
  · exact .reset ⟨rest, hs⟩ rfl

/-- A view of the block that the error of a reserved code, a push and a cell write leave is changed by a reset or a
command only. -/
theorem reset_or_command_of_change {s t : State} (h : step s = .next t) {α : Type} (view : Block → α)
    (hbad : ∀ b : Block, view (b.raiseError .badCmd) = view b) (hpush : ∀ (b : Block) v, view (b.push v) = view b)
    (hcell : ∀ (b : Block) x y v, view (b.writeCell x y v) = view b) (hne : view t.block ≠ view s.block) :
    (s.Resets ∧ t.block = Block.reset) ∨ ∃ i, s.Issues (encode i) ∧ t.block = effect i s.block := by
  cases stepEffect_of_step h with
  | unchanged hb => exact absurd (by rw [hb]) hne
  | reset hr hb => exact .inl ⟨hr, hb⟩
  | command i hi hb => exact .inr ⟨i, hi, hb⟩
  | badCommand v hi hb => exact absurd (by rw [hb, hbad]) hne
  | push v rest ho hs hb => exact absurd (by rw [hb, hpush]) hne
  | cellWrite x y v ho hx hy hb => exact absurd (by rw [hb, hcell]) hne

end Sys2Proof.Machine
end

section
/-! SUPPORT. The frame of each command that branches (30_encoding.md R93), field by field, and from it which step
changes which component (10_state.md R23 to R33). -/

namespace Sys2Proof.Machine

/-! ### The frames, whole -/

/-- BSENC writes OPST, ERR, FCODE, DV, CV and CW at most. -/
theorem encodeBits_keeps (p : Config.Params) (b : Block) :
    b.encodeBits p = { b with
      opst := (b.encodeBits p).opst, err := (b.encodeBits p).err, fcode := (b.encodeBits p).fcode
      dv := (b.encodeBits p).dv, cv := (b.encodeBits p).cv, cw := (b.encodeBits p).cw } := by
  rcases encodeBits_cases p b with ⟨-, h⟩ | ⟨-, -, h⟩ | ⟨-, -, h⟩
  all_goals rw [h]
  all_goals rfl

/-- RSENC writes ERR, CV and CW at most. -/
theorem encodeEc_keeps (p : Config.Params) (b : Block) :
    b.encodeEc p = { b with err := (b.encodeEc p).err, cv := (b.encodeEc p).cv, cw := (b.encodeEc p).cw } := by
  rcases encodeEc_cases p b with ⟨-, h⟩ | ⟨-, h⟩
  all_goals rw [h]
  all_goals rfl

/-- ZZNEXT writes ERR, the cursor, CX, CY and COV at most. -/
theorem nextCoord_keeps (b : Block) :
    b.nextCoord = { b with
      err := b.nextCoord.err, cursor := b.nextCoord.cursor, cx := b.nextCoord.cx, cy := b.nextCoord.cy
      cov := b.nextCoord.cov } := by
  rcases nextCoord_cases b with ⟨-, h⟩ | ⟨-, h⟩ <;> rw [h]

/-- PLACE leaves PAY, PLEN, CW, DV and CV. -/
theorem placeStream_keeps (p : Config.Params) (b : Block) :
    b.placeStream p = { b with
      opst := (b.placeStream p).opst, err := (b.placeStream p).err, fcode := (b.placeStream p).fcode
      pv := (b.placeStream p).pv, grid := (b.placeStream p).grid, cursor := (b.placeStream p).cursor
      cx := (b.placeStream p).cx, cy := (b.placeStream p).cy, cov := (b.placeStream p).cov
      spos := (b.placeStream p).spos } := by
  have hloop := placeLoop_keeps p Config.numCoords b.placeStart
  rcases placeStream_cases p b with ⟨-, h⟩ | ⟨b', f, -, hl, h⟩ | ⟨b', -, hl, -, h⟩ | ⟨b', -, hl, -, h⟩
  all_goals rw [h]
  · rfl
  all_goals
    rw [hl] at hloop
    dsimp only at hloop
    rw [hloop]
    rfl

/-! ### The frames, field by field -/

@[simp] theorem Block.encodeBits_pv (p : Config.Params) (b : Block) : (b.encodeBits p).pv = b.pv := by
  rw [encodeBits_keeps]
@[simp] theorem Block.encodeBits_plen (p : Config.Params) (b : Block) : (b.encodeBits p).plen = b.plen := by
  rw [encodeBits_keeps]
@[simp] theorem Block.encodeBits_pay (p : Config.Params) (b : Block) : (b.encodeBits p).pay = b.pay := by
  rw [encodeBits_keeps]
@[simp] theorem Block.encodeBits_grid (p : Config.Params) (b : Block) : (b.encodeBits p).grid = b.grid := by
  rw [encodeBits_keeps]
@[simp] theorem Block.encodeBits_cursor (p : Config.Params) (b : Block) : (b.encodeBits p).cursor = b.cursor := by
  rw [encodeBits_keeps]
@[simp] theorem Block.encodeBits_cx (p : Config.Params) (b : Block) : (b.encodeBits p).cx = b.cx := by
  rw [encodeBits_keeps]
@[simp] theorem Block.encodeBits_cy (p : Config.Params) (b : Block) : (b.encodeBits p).cy = b.cy := by
  rw [encodeBits_keeps]
@[simp] theorem Block.encodeBits_cov (p : Config.Params) (b : Block) : (b.encodeBits p).cov = b.cov := by
  rw [encodeBits_keeps]
@[simp] theorem Block.encodeBits_spos (p : Config.Params) (b : Block) : (b.encodeBits p).spos = b.spos := by
  rw [encodeBits_keeps]

@[simp] theorem Block.encodeEc_opst (p : Config.Params) (b : Block) : (b.encodeEc p).opst = b.opst := by
  rw [encodeEc_keeps]
@[simp] theorem Block.encodeEc_fcode (p : Config.Params) (b : Block) : (b.encodeEc p).fcode = b.fcode := by
  rw [encodeEc_keeps]
@[simp] theorem Block.encodeEc_dv (p : Config.Params) (b : Block) : (b.encodeEc p).dv = b.dv := by
  rw [encodeEc_keeps]
@[simp] theorem Block.encodeEc_pv (p : Config.Params) (b : Block) : (b.encodeEc p).pv = b.pv := by
  rw [encodeEc_keeps]
@[simp] theorem Block.encodeEc_plen (p : Config.Params) (b : Block) : (b.encodeEc p).plen = b.plen := by
  rw [encodeEc_keeps]
@[simp] theorem Block.encodeEc_pay (p : Config.Params) (b : Block) : (b.encodeEc p).pay = b.pay := by
  rw [encodeEc_keeps]
@[simp] theorem Block.encodeEc_grid (p : Config.Params) (b : Block) : (b.encodeEc p).grid = b.grid := by
  rw [encodeEc_keeps]
@[simp] theorem Block.encodeEc_cursor (p : Config.Params) (b : Block) : (b.encodeEc p).cursor = b.cursor := by
  rw [encodeEc_keeps]
@[simp] theorem Block.encodeEc_cx (p : Config.Params) (b : Block) : (b.encodeEc p).cx = b.cx := by
  rw [encodeEc_keeps]
@[simp] theorem Block.encodeEc_cy (p : Config.Params) (b : Block) : (b.encodeEc p).cy = b.cy := by
  rw [encodeEc_keeps]
@[simp] theorem Block.encodeEc_cov (p : Config.Params) (b : Block) : (b.encodeEc p).cov = b.cov := by
  rw [encodeEc_keeps]
@[simp] theorem Block.encodeEc_spos (p : Config.Params) (b : Block) : (b.encodeEc p).spos = b.spos := by
  rw [encodeEc_keeps]

@[simp] theorem Block.nextCoord_opst (b : Block) : b.nextCoord.opst = b.opst := by rw [nextCoord_keeps]
@[simp] theorem Block.nextCoord_fcode (b : Block) : b.nextCoord.fcode = b.fcode := by rw [nextCoord_keeps]
@[simp] theorem Block.nextCoord_dv (b : Block) : b.nextCoord.dv = b.dv := by rw [nextCoord_keeps]
@[simp] theorem Block.nextCoord_cv (b : Block) : b.nextCoord.cv = b.cv := by rw [nextCoord_keeps]
@[simp] theorem Block.nextCoord_pv (b : Block) : b.nextCoord.pv = b.pv := by rw [nextCoord_keeps]
@[simp] theorem Block.nextCoord_plen (b : Block) : b.nextCoord.plen = b.plen := by rw [nextCoord_keeps]
@[simp] theorem Block.nextCoord_pay (b : Block) : b.nextCoord.pay = b.pay := by rw [nextCoord_keeps]
@[simp] theorem Block.nextCoord_cw (b : Block) : b.nextCoord.cw = b.cw := by rw [nextCoord_keeps]
@[simp] theorem Block.nextCoord_grid (b : Block) : b.nextCoord.grid = b.grid := by rw [nextCoord_keeps]
@[simp] theorem Block.nextCoord_spos (b : Block) : b.nextCoord.spos = b.spos := by rw [nextCoord_keeps]

@[simp] theorem Block.placeStream_dv (p : Config.Params) (b : Block) : (b.placeStream p).dv = b.dv := by
  rw [placeStream_keeps]
@[simp] theorem Block.placeStream_cv (p : Config.Params) (b : Block) : (b.placeStream p).cv = b.cv := by
  rw [placeStream_keeps]
@[simp] theorem Block.placeStream_plen (p : Config.Params) (b : Block) : (b.placeStream p).plen = b.plen := by
  rw [placeStream_keeps]
@[simp] theorem Block.placeStream_pay (p : Config.Params) (b : Block) : (b.placeStream p).pay = b.pay := by
  rw [placeStream_keeps]
@[simp] theorem Block.placeStream_cw (p : Config.Params) (b : Block) : (b.placeStream p).cw = b.cw := by
  rw [placeStream_keeps]

/-! ### What each command does to the validity flags and to CW -/

/-- DV after a command (10_state.md R23). -/
theorem effect_dv (i : Instr) (b : Block) :
    (effect i b).dv = b.dv ∨ (i = .clr ∧ (effect i b).dv = false) ∨ (i = .bsenc ∧ (effect i b).dv = true) := by
  cases i with
  | clr => exact .inr (.inl ⟨rfl, rfl⟩)
  | bsenc =>
    rcases encodeBits_cases Config.params b with ⟨-, h⟩ | ⟨-, -, h⟩ | ⟨-, -, h⟩ <;> simp [effect, h]
  | nop | rsenc | zzinit | zznext | gclr | place => simp [effect]

/-- CV after a command (R23). -/
theorem effect_cv (i : Instr) (b : Block) :
    (effect i b).cv = b.cv ∨ ((i = .clr ∨ i = .bsenc) ∧ (effect i b).cv = false) ∨
      (i = .rsenc ∧ (effect i b).cv = true) := by
  cases i with
  | clr => exact .inr (.inl ⟨.inl rfl, rfl⟩)
  | bsenc =>
    rcases encodeBits_cases Config.params b with ⟨-, h⟩ | ⟨-, -, h⟩ | ⟨-, -, h⟩ <;> simp [effect, h]
  | rsenc => rcases encodeEc_cases Config.params b with ⟨-, h⟩ | ⟨-, h⟩ <;> simp [effect, h]
  | nop | zzinit | zznext | gclr | place => simp [effect]

/-- PV after PLACE: set by a success, else as before. -/
theorem placeStream_pv (p : Config.Params) (b : Block) : (b.placeStream p).pv = b.pv ∨ (b.placeStream p).pv = true := by
  have hloop : (placeLoop p Config.numCoords b.placeStart).1.pv = b.pv := by rw [placeLoop_keeps]; rfl
  rcases placeStream_cases p b with ⟨-, h⟩ | ⟨b', f, -, hl, h⟩ | ⟨b', -, hl, -, h⟩ | ⟨b', -, -, -, h⟩
  · exact .inl (by rw [h, Block.raiseError_pv])
  · exact .inl (by rw [h, Block.raiseFault_pv, ← hloop, hl])
  · exact .inl (by rw [h, Block.raiseFault_pv, ← hloop, hl])
  · exact .inr (by rw [h])

/-- PV after a command (R23). -/
theorem effect_pv (i : Instr) (b : Block) :
    (effect i b).pv = b.pv ∨ ((i = .clr ∨ i = .gclr) ∧ (effect i b).pv = false) ∨
      (i = .place ∧ (effect i b).pv = true) := by
  cases i with
  | clr => exact .inr (.inl ⟨.inl rfl, rfl⟩)
  | gclr => exact .inr (.inl ⟨.inr rfl, rfl⟩)
  | place => exact (placeStream_pv Config.params b).imp_right fun h => .inr ⟨rfl, h⟩
  | nop | bsenc | rsenc | zzinit | zznext => simp [effect]

/-- BSENC leaves the error-correction codewords (10_state.md R33). -/
theorem encodeBits_cw_get (p : Config.Params) {b : Block} (hcw : b.cw.wf = true) {c : Nat} (hc : 55 ≤ c) :
    (b.encodeBits p).cw.get c = b.cw.get c := by
  rcases encodeBits_cases p b with ⟨-, h⟩ | ⟨-, -, h⟩ | ⟨-, -, h⟩
  · rw [h, Block.raiseError_cw]
  · rw [h, Block.raiseFault_cw]
  · rw [h, Memory.get_setRange hcw, if_neg (by rw [length_packBits]; omega)]

/-- RSENC leaves all but the error-correction codewords (R33). -/
theorem encodeEc_cw_get (p : Config.Params) {b : Block} (hcw : b.cw.wf = true) {c : Nat} (hc : c < 55 ∨ 70 ≤ c) :
    (b.encodeEc p).cw.get c = b.cw.get c := by
  rcases encodeEc_cases p b with ⟨-, h⟩ | ⟨-, h⟩
  · rw [h, Block.raiseError_cw]
  · rw [h, Memory.get_setRange hcw, length_rsEc p b.length_dataWords, if_neg (by omega)]

/-! ### Which step changes which component -/

/-- Settles O55, by the six effects of a step; of the commands only CLR writes PAY. -/
theorem payloadChangesOnlyByPushClearReset : Obligations.PayloadChangesOnlyByPushClearReset := by
  intro s t h hne
  cases stepEffect_of_step h with
  | unchanged hb => exact absurd (by rw [hb]) hne
  | reset hr hb => exact .inl hr
  | command i hi hb =>
    cases i with
    | clr => exact .inr (.inr hi)
    | nop | bsenc | rsenc | zzinit | zznext | gclr | place => exact absurd (by simp [hb, effect]) hne
  | badCommand v hi hb => exact absurd (by rw [hb, Block.raiseError_pay]) hne
  | push v rest ho hs hb => exact .inr (.inl ⟨ho, v, rest, hs⟩)
  | cellWrite x y v ho hx hy hb => exact absurd (by rw [hb, Block.writeCell_pay]) hne

/-- Settles O56: a reset or a command, and BSENC and RSENC each in its part. -/
theorem codewordsChangeOnlyByTheirWriters : Obligations.CodewordsChangeOnlyByTheirWriters := by
  intro s t hcw h c hne
  rcases reset_or_command_of_change h (fun b => b.cw.get c) (fun _ => rfl) (fun _ _ => rfl) (fun _ _ _ _ => rfl) hne
    with ⟨hr, -⟩ | ⟨i, hi, hb⟩
  · exact .inl hr
  · rw [hb] at hne
    cases i with
    | clr => exact .inr (.inl hi)
    | bsenc =>
      have hc : c < 55 := by by_contra hc; exact hne (encodeBits_cw_get _ hcw (by omega))
      exact .inr (.inr (.inl ⟨hi, hc⟩))
    | rsenc =>
      have hc : 55 ≤ c ∧ c < 70 := by by_contra hc; exact hne (encodeEc_cw_get _ hcw (by omega))
      exact .inr (.inr (.inr ⟨hi, hc⟩))
    | nop | zzinit | zznext | gclr | place => exact absurd (by simp [effect]) hne

/-- A flag that is 0 at reset and that only commands write: what sets it and what clears it. -/
theorem flag_events {s t : State} (h : step s = .next t) (flag : Block → Bool) (clears sets : Instr → Prop)
    (hreset : flag Block.reset = false) (hbad : ∀ b : Block, flag (b.raiseError .badCmd) = flag b)
    (hpush : ∀ (b : Block) v, flag (b.push v) = flag b)
    (hcell : ∀ (b : Block) x y v, flag (b.writeCell x y v) = flag b)
    (heffect : ∀ i b, flag (effect i b) = flag b ∨ (clears i ∧ flag (effect i b) = false) ∨
      (sets i ∧ flag (effect i b) = true)) :
    (flag s.block = false → flag t.block = true → ∃ i, sets i ∧ s.Issues (encode i)) ∧
    (flag s.block = true → flag t.block = false → s.Resets ∨ ∃ i, clears i ∧ s.Issues (encode i)) := by
  have change := reset_or_command_of_change h flag hbad hpush hcell
  constructor
  all_goals
    intro hold hnew
    rcases change (by simp [hold, hnew]) with ⟨hr, hb⟩ | ⟨i, hi, hb⟩
  · simp [hb, hreset] at hnew
  · rcases heffect i s.block with he | ⟨-, he⟩ | ⟨hset, -⟩
    · simp [hb, he, hold] at hnew
    · simp [hb, he] at hnew
    · exact ⟨i, hset, hi⟩
  · exact .inl hr
  · rcases heffect i s.block with he | ⟨hclear, -⟩ | ⟨-, he⟩
    · simp [hb, he, hold] at hnew
    · exact .inr ⟨i, hclear, hi⟩
    · simp [hb, he] at hnew

/-- Settles O57, flag by flag. -/
theorem validityFlagsChangeByNamedEvents : Obligations.ValidityFlagsChangeByNamedEvents := by
  intro s t h
  obtain ⟨dvSet, dvClear⟩ := flag_events h Block.dv (· = .clr) (· = .bsenc) rfl (fun _ => rfl) (fun _ _ => rfl)
    (fun _ _ _ _ => rfl) effect_dv
  obtain ⟨cvSet, cvClear⟩ := flag_events h Block.cv (fun i => i = .clr ∨ i = .bsenc) (· = .rsenc) rfl (fun _ => rfl)
    (fun _ _ => rfl) (fun _ _ _ _ => rfl) effect_cv
  obtain ⟨pvSet, pvClear⟩ := flag_events h Block.pv (fun i => i = .clr ∨ i = .gclr) (· = .place) rfl (fun _ => rfl)
    (fun _ _ => rfl) (fun _ _ _ _ => rfl) effect_pv
  refine ⟨fun hold hnew => ?_, fun hold hnew => ?_, fun hold hnew => ?_, fun hold hnew => ?_, fun hold hnew => ?_,
    fun hold hnew => ?_⟩
  · obtain ⟨_, rfl, hi⟩ := dvSet hold hnew
    exact hi
  · rcases dvClear hold hnew with hr | ⟨_, rfl, hi⟩
    · exact .inl hr
    · exact .inr hi
  · obtain ⟨_, rfl, hi⟩ := cvSet hold hnew
    exact hi
  · rcases cvClear hold hnew with hr | ⟨_, rfl | rfl, hi⟩
    · exact .inl hr
    · exact .inr (.inl hi)
    · exact .inr (.inr hi)
  · obtain ⟨_, rfl, hi⟩ := pvSet hold hnew
    exact hi
  · rcases pvClear hold hnew with hr | ⟨_, rfl | rfl, hi⟩
    · exact .inl hr
    · exact .inr (.inl hi)
    · exact .inr (.inr hi)

/-- A step that changes ERR or FCODE is a reset or a write to CMD that acts (R24, R25). -/
theorem reset_or_issues_of_outcome_change {s t : State} (h : step s = .next t)
    (hne : t.block.err ≠ s.block.err ∨ t.block.fcode ≠ s.block.fcode) : s.Resets ∨ ∃ v, s.Issues v := by
  cases stepEffect_of_step h with
  | reset hr hb => exact .inl hr
  | command i hi hb => exact .inr ⟨_, hi⟩
  | badCommand v hi hb => exact .inr ⟨v, hi⟩
  | unchanged hb | push v rest ho hs hb | cellWrite x y v ho hx hy hb => simp [hb] at hne

/-- Settles O58; no write to CMD acts in FAULTED. -/
theorem outcomeRegistersChangeByCommandOrReset : Obligations.OutcomeRegistersChangeByCommandOrReset := by
  intro s t h
  refine ⟨reset_or_issues_of_outcome_change h, fun hf hne => ?_⟩
  rcases reset_or_issues_of_outcome_change h (.inr hne) with hr | ⟨v, ho, -⟩
  · exact hr
  · rw [hf] at ho; cases ho

/-- Settles O59: a reset or a command, and which commands leave the cursor and SPOS. -/
theorem cursorChangesOnlyByTraversalCommands : Obligations.CursorChangesOnlyByTraversalCommands := by
  intro s t h
  refine ⟨fun hne => ?_, fun hne => ?_⟩
  · have hne' : (t.block.cursor, t.block.cx, t.block.cy, t.block.cov) ≠
        (s.block.cursor, s.block.cx, s.block.cy, s.block.cov) := by
      simp only [ne_eq, Prod.mk.injEq]; tauto
    rcases reset_or_command_of_change h (fun b => (b.cursor, b.cx, b.cy, b.cov)) (fun _ => rfl) (fun _ _ => rfl)
      (fun _ _ _ _ => rfl) hne' with ⟨hr, -⟩ | ⟨i, hi, hb⟩
    · exact .inl hr
    · cases i with
      | clr => exact .inr (.inl hi)
      | zzinit => exact .inr (.inr (.inl hi))
      | zznext => exact .inr (.inr (.inr (.inl hi)))
      | place => exact .inr (.inr (.inr (.inr hi)))
      | nop | bsenc | rsenc | gclr => exact absurd (by simp [hb, effect]) hne'
  · rcases reset_or_command_of_change h Block.spos (fun _ => rfl) (fun _ _ => rfl) (fun _ _ _ _ => rfl) hne
      with ⟨hr, -⟩ | ⟨i, hi, hb⟩
    · exact .inl hr
    · cases i with
      | clr => exact .inr (.inl hi)
      | place => exact .inr (.inr hi)
      | nop | bsenc | rsenc | zzinit | zznext | gclr => exact absurd (by simp [hb, effect]) hne

end Sys2Proof.Machine
end

section
/-! SUPPORT. The reset values, the flag registers, the push and the final stream (10_state.md R23, R27, R29, R36,
R40). -/

namespace Sys2Proof.Machine

/-! ### The reset values (R40) -/

theorem Block.reset_atReset : Block.reset.AtReset :=
  ⟨rfl, rfl, rfl, rfl, rfl, rfl, rfl, fun _ _ => rfl, fun _ _ => rfl, rfl, rfl, rfl, rfl, rfl, rfl, rfl, rfl, rfl,
    fun x y _ _ => Block.cell_reset x y⟩

/-- Every address of a reset block reads 0x00. -/
theorem hostRead_reset (a : Addr) : hostRead Block.reset a = 0x00 := by
  unfold hostRead
  cases target a with
  | cell x y => simp only [Block.cell_reset]; rfl
  | _ => rfl

/-- Settles O16: both resets leave the block at its reset values. -/
theorem resetAndClearGiveResetValues : Obligations.ResetAndClearGiveResetValues := by
  refine ⟨fun s rest hs => ⟨Block.reset, ?_, Block.reset_atReset, hostRead_reset⟩, fun s ho => ?_, fun s hf => ?_⟩
  · simp only [step, stepTransaction, hs, transact, State.mapBlock, Block.hardReset_eq]
  · exact ⟨Block.reset, exec_ready .clr ho, Block.reset_atReset, hostRead_reset⟩
  · exact exec_faulted .clr hf

/-- Settles O17. -/
theorem machineStartsAtResetValues : Obligations.MachineStartsAtResetValues := ⟨Block.reset_atReset, rfl, rfl⟩

/-! ### The flag registers (R23, R29) -/

/-- A byte of three zero bits and five flags. -/
theorem five_flags_bits : ∀ a b c d e : Bool,
    let v : Byte := 0#3 ++ BitVec.ofBool a ++ BitVec.ofBool b ++ BitVec.ofBool c ++ BitVec.ofBool d ++ BitVec.ofBool e
    v.getLsbD 0 = e ∧ v.getLsbD 1 = d ∧ v.getLsbD 2 = c ∧ v.getLsbD 3 = b ∧ v.getLsbD 4 = a ∧ v.toNat < 32 := by
  decide

/-- A byte of four zero bits and four flags. -/
theorem four_flags_bits : ∀ a b c d : Bool,
    let v : Byte := 0#4 ++ BitVec.ofBool a ++ BitVec.ofBool b ++ BitVec.ofBool c ++ BitVec.ofBool d
    v.getLsbD 0 = d ∧ v.getLsbD 1 = c ∧ v.getLsbD 2 = b ∧ v.getLsbD 3 = a ∧ v.toNat < 16 := by
  decide

theorem Block.errf_iff (b : Block) : b.errf = true ↔ b.err ≠ 0x00 := by simp [Block.errf]

theorem Block.faultFlag_iff (b : Block) : b.faultFlag = true ↔ b.opst = .faulted := by
  unfold Block.faultFlag
  cases b.opst <;> simp

/-- Settles O9: 0x001 shows STATUS and 0x008 shows ZFLAGS, each the concatenation of its flags. -/
theorem flagRegistersBitByBit : Obligations.FlagRegistersBitByBit := by
  intro b
  obtain ⟨h0, h1, h2, h3, h4, hlt⟩ := five_flags_bits b.pv b.cv b.dv b.faultFlag b.errf
  obtain ⟨z0, z1, z2, z3, zlt⟩ := four_flags_bits b.cov b.cursor.hnext b.cursor.up b.cursor.zv
  exact ⟨by rw [← b.errf_iff, ← h0]; rfl, by rw [← b.faultFlag_iff, ← h1]; rfl, h2, h3, h4, hlt, z0, z1, z2, z3, zlt⟩

/-! ### The push (R27) -/

/-- The counter after a push: one more, saturating at 255. -/
theorem Block.push_plen_toNat (v : Byte) (b : Block) : (b.push v).plen.toNat = min (b.plen.toNat + 1) 255 := by
  rw [Block.push_plen, BitVec.toNat_ofNat]
  exact Nat.mod_eq_of_lt (by simp only [Config.plenMax]; omega)

/-- A byte of PAY after a push: the pushed one at PAY[PLEN] when PLEN is below 64, every other as before. -/
theorem Block.push_pay_get (v : Byte) {b : Block} (hpay : b.pay.wf = true) (k : Nat) :
    (b.push v).pay.get k = if b.plen.toNat < 64 ∧ b.plen.toNat = k then v else b.pay.get k := by
  rw [Block.push_pay]
  by_cases hn : b.plen.toNat < 64
  · rw [if_pos hn, Memory.get_set hpay]
    simp only [hn, true_and]
  · rw [if_neg hn, if_neg (by omega)]

/-- A write to 0x005 is a push, in READY only. -/
theorem step_push {s : State} {v : Byte} {rest : List Transaction} (hs : s.script = .write 0x005 v :: rest) :
    step s = command (Block.push v) { s with script := rest } := by
  have ht : target 0x005 = .pdata := rfl
  simp only [step, stepTransaction, hs, transact, hostWrite, ht]

/-- Settles O15, by the push's law for PAY and for PLEN. -/
theorem payloadPushAppends : Obligations.PayloadPushAppends := by
  intro s v rest hs
  refine ⟨rfl, fun hf => ?_, fun ho hpay => ⟨(s.block.push v).pay, (s.block.push v).plen, ?_, ?_, ?_, ?_⟩⟩
  · rw [step_push hs, command_faulted (by exact hf)]
  · rw [step_push hs, command_ready (by exact ho)]; rfl
  · exact Block.push_plen_toNat v s.block
  · intro hn
    rw [Block.push_pay_get v hpay, if_pos ⟨hn, rfl⟩]
  · intro k hk
    rw [Block.push_pay_get v hpay, if_neg (by omega)]

/-! ### The final stream (R36, 42_reed_solomon.md R178) -/

theorem Block.getD_stream (p : Config.Params) (b : Block) {i : Nat} (hi : i < slen p) :
    (b.stream p).getD i true = b.streamBit i := by
  simp [Block.stream, List.getD, hi]

theorem slen_default : slen Config.params = 567 := rfl

/-- The stream bits by their positions. -/
theorem Block.streamBit_eq (b : Block) (i : Nat) :
    b.streamBit i = if i < 560 then (b.cw.get (i / 8)).getLsbD (7 - i % 8) else false := rfl

/-- Settles O36: bit by bit `streamBit`. -/
theorem finalStreamIsCodewordsThenZeros : Obligations.FinalStreamIsCodewordsThenZeros := by
  intro b
  refine ⟨by simp [Block.stream, slen_default], fun i hi => ?_, fun i hi hi' => ?_⟩
  · rw [b.getD_stream _ (by rw [slen_default]; omega), b.streamBit_eq, if_pos hi]
  · rw [b.getD_stream _ hi', b.streamBit_eq, if_neg (by omega)]

end Sys2Proof.Machine
end

section
/-! SUPPORT. The invariant of the block holds at reset and every effect of a step keeps it (10_state.md R21 to R34,
43_zigzag_placement.md R210): the invariant's parts first, then one lemma per effect. -/

namespace Sys2Proof.Machine

/-! ### The memories -/

/-- What holds of every entry and of the byte stored holds of every entry after the store. -/
theorem Memory.all_set {m : Memory} {a : Nat} {v : Byte} {ok : Host.Cell → Bool} (hm : m.all ok = true)
    (hv : ok (a, v) = true) : (m.set a v).all ok = true := by
  rw [List.all_eq_true] at hm ⊢
  intro e he
  rcases Memory.mem_set he with he | rfl
  · exact hm e he
  · exact hv

theorem Memory.below_set {n a : Nat} {m : Memory} (v : Byte) (hm : m.below n = true) (ha : a < n) :
    (m.set a v).below n = true :=
  Memory.all_set hm (by simpa using ha)

theorem Memory.below_setRange {n base : Nat} {m : Memory} {vs : List Byte} (hm : m.below n = true)
    (hn : base + vs.length ≤ n) : (m.setRange base vs).below n = true := by
  induction vs generalizing m base with
  | nil => exact hm
  | cons v vs ih =>
    rw [List.length_cons] at hn
    exact ih (Memory.below_set v hm (by omega)) (by omega)

theorem Memory.cellsOnly_set {x y : Nat} {v : Byte} {m : Memory} (hm : m.cellsOnly = true) (hx : x < 29) (hy : y < 29)
    (hv : legalCode v = true) : (m.set (cellIndex x y) v).cellsOnly = true := by
  have hmod : cellIndex x y % 32 = x := by simp only [cellIndex, Config.gridStride]; omega
  have hdiv : cellIndex x y / 32 = y := by simp only [cellIndex, Config.gridStride]; omega
  exact Memory.all_set hm (by simp [hmod, hdiv, hx, hy, hv])

theorem Block.memoriesOk_iff (b : Block) :
    b.memoriesOk = true ↔ (b.pay.wf = true ∧ b.pay.below 64 = true) ∧ (b.cw.wf = true ∧ b.cw.below 70 = true) ∧
      (b.grid.wf = true ∧ b.grid.cellsOnly = true) := by
  simp [Block.memoriesOk, and_assoc]

theorem Block.Inv.cw_wf {b : Block} (h : b.Inv) : b.cw.wf = true := (b.memoriesOk_iff.1 h.memories).2.1.1

theorem Block.memoriesOk_storeCell {b : Block} {x y : Nat} {v : Byte} (h : b.memoriesOk = true) (hx : x < 29)
    (hy : y < 29) (hv : legalCode v = true) :
    ({ b with grid := b.grid.set (cellIndex x y) v } : Block).memoriesOk = true := by
  obtain ⟨hpay, hcw, hwf, hcells⟩ := b.memoriesOk_iff.1 h
  exact (Block.memoriesOk_iff _).2 ⟨hpay, hcw, Memory.set_wf _ v hwf, Memory.cellsOnly_set hcells hx hy hv⟩

theorem Block.memoriesOk_storeCodewords {b : Block} {base : Nat} {vs : List Byte} (h : b.memoriesOk = true)
    (hn : base + vs.length ≤ 70) : ({ b with cw := b.cw.setRange base vs } : Block).memoriesOk = true := by
  obtain ⟨hpay, ⟨hwf, hbelow⟩, hgrid⟩ := b.memoriesOk_iff.1 h
  exact (Block.memoriesOk_iff _).2 ⟨hpay, ⟨Memory.setRange_wf base vs hwf, Memory.below_setRange hbelow hn⟩, hgrid⟩

theorem Block.memoriesOk_push {b : Block} (v : Byte) (h : b.memoriesOk = true) : (b.push v).memoriesOk = true := by
  obtain ⟨⟨hwf, hbelow⟩, hcw, hgrid⟩ := b.memoriesOk_iff.1 h
  refine (Block.memoriesOk_iff _).2 ⟨?_, hcw, hgrid⟩
  rw [Block.push_pay]
  split
  · rename_i hn
    exact ⟨Memory.set_wf _ v hwf, Memory.below_set v hbelow hn⟩
  · exact ⟨hwf, hbelow⟩

/-! ### The outcome registers and the cursor -/

theorem Block.outcomeOk_of_ready {b : Block} (ho : b.opst = .ready) :
    b.outcomeOk = true ↔ b.fcode = 0x00 ∧ b.err ∈ [0x00#8, 0x01#8, 0x04#8, 0x05#8] := by
  simp [Block.outcomeOk, ho]

theorem Block.outcomeOk_raiseFault (f : FaultName) (b : Block) : (b.raiseFault f).outcomeOk = true := by
  cases f <;> rfl

/-- A live cursor that the invariant admits is one of the traversal, before its end. -/
theorem Block.CursorOk.of_live {b : Block} (h : b.CursorOk) (hz : b.cursor.zv = true) :
    ∃ n, n < 812 ∧ b.cursor = cursorAt n := by
  obtain ⟨hc | ⟨n, -, hc⟩, -⟩ := h
  · rw [hc] at hz; cases hz
  · refine ⟨n, ?_, hc⟩
    rw [hc, cursorAt_zv] at hz
    simpa using hz

/-- The yield at the n-th cursor leaves the next cursor and the n-th coordinate. -/
theorem Block.cursorOk_yieldCoord {b : Block} {n : Nat} (hn : n < 812) (hc : b.cursor = cursorAt n) :
    b.yieldCoord.cursor = cursorAt (n + 1) ∧ b.yieldCoord.CursorOk := by
  have hadv : b.yieldCoord.cursor = cursorAt (n + 1) := by rw [Block.yieldCoord_cursor, hc, advance_cursorAt n hn]
  have hbounds := cursorAt_bounds n
  have hcoord := cursorAt_coord n hn
  rw [← hc] at hbounds hcoord
  exact ⟨hadv, .inr ⟨n + 1, hn, hadv⟩, hbounds.1, hbounds.2, fun _ => ⟨n, hn, hcoord⟩⟩

/-- A fresh cursor, with COV cleared, is the 0-th of the traversal. -/
theorem Block.cursorOk_start {b : Block} (h : b.CursorOk) :
    ({ b with cursor := Cursor.start, cov := false } : Block).CursorOk := by
  obtain ⟨-, hx, hy, -⟩ := h
  exact ⟨.inr ⟨0, by omega, cursorAt_zero.symm⟩, hx, hy, nofun⟩

/-! ### The effects that are no command -/

theorem Block.inv_reset : Block.reset.Inv where
  memories := rfl
  outcome := rfl
  cursor := ⟨.inl rfl, by decide, by decide, nofun⟩
  spos := by decide
  flags := nofun

theorem Block.codewordsOk_reset : Block.reset.CodewordsOk := ⟨nofun, nofun⟩

/-- Settles O53: the reset cursor is the invariant's first case, and both flags are 0. -/
theorem blockInvariantsAtReset : Obligations.BlockInvariantsAtReset := ⟨Block.inv_reset, Block.codewordsOk_reset⟩

/-- In READY, ERR may take any of its legal values. -/
theorem Block.Inv.withErr {b : Block} (h : b.Inv) (ho : b.opst = .ready) {e : Byte}
    (he : e ∈ [0x00#8, 0x01#8, 0x04#8, 0x05#8]) : ({ b with err := e } : Block).Inv := by
  obtain ⟨hfcode, -⟩ := (Block.outcomeOk_of_ready ho).1 h.outcome
  have houtcome := (Block.outcomeOk_of_ready (b := { b with err := e }) ho).2 ⟨hfcode, he⟩
  exact ⟨h.memories, houtcome, h.cursor, h.spos, h.flags⟩

theorem Block.Inv.succeed {b : Block} (h : b.Inv) (ho : b.opst = .ready) : b.succeed.Inv := h.withErr ho (by decide)

theorem Block.Inv.raiseFault {b : Block} (h : b.Inv) (f : FaultName) : (b.raiseFault f).Inv where
  memories := h.memories
  outcome := Block.outcomeOk_raiseFault f b
  cursor := h.cursor
  spos := h.spos
  flags := h.flags

theorem Block.Inv.push {b : Block} (h : b.Inv) (v : Byte) : (b.push v).Inv where
  memories := Block.memoriesOk_push v h.memories
  outcome := h.outcome
  cursor := h.cursor
  spos := h.spos
  flags := h.flags

theorem Block.Inv.writeCell {b : Block} (h : b.Inv) {x y : Nat} (v : Byte) (hx : x < 29) (hy : y < 29) :
    (b.writeCell x y v).Inv where
  memories := Block.memoriesOk_storeCell h.memories hx hy (legalCode_legalise v)
  outcome := h.outcome
  cursor := h.cursor
  spos := h.spos
  flags := h.flags

/-! ### The commands -/

theorem Block.Inv.clearGrid {b : Block} (h : b.Inv) (ho : b.opst = .ready) : b.clearGrid.Inv := by
  obtain ⟨hpay, hcw, -⟩ := b.memoriesOk_iff.1 h.memories
  have hinv : ({ b with grid := Memory.clear, pv := false } : Block).Inv :=
    ⟨(Block.memoriesOk_iff _).2 ⟨hpay, hcw, rfl, rfl⟩, h.outcome, h.cursor, h.spos, h.flags⟩
  exact hinv.succeed ho

theorem Block.Inv.initTraversal {b : Block} (h : b.Inv) (ho : b.opst = .ready) : b.initTraversal.Inv := by
  have hinv : ({ b with cursor := Cursor.start, cov := false } : Block).Inv :=
    ⟨h.memories, h.outcome, Block.cursorOk_start h.cursor, h.spos, h.flags⟩
  exact hinv.succeed ho

theorem Block.Inv.yieldCoord {b : Block} (h : b.Inv) {n : Nat} (hn : n < 812) (hc : b.cursor = cursorAt n) :
    b.yieldCoord.Inv :=
  ⟨h.memories, h.outcome, (Block.cursorOk_yieldCoord hn hc).2, h.spos, h.flags⟩

theorem Block.Inv.nextCoord {b : Block} (h : b.Inv) (ho : b.opst = .ready) : b.nextCoord.Inv := by
  rcases nextCoord_cases b with ⟨hz, heq⟩ | ⟨-, heq⟩
  · obtain ⟨n, hn, hc⟩ := h.cursor.of_live hz
    rw [heq]
    exact (h.yieldCoord hn hc).succeed ho
  · obtain ⟨hcur, hx, hy, -⟩ := h.cursor
    have hinv : ({ b with cov := false } : Block).Inv :=
      ⟨h.memories, h.outcome, ⟨hcur, hx, hy, nofun⟩, h.spos, h.flags⟩
    rw [heq]
    exact hinv.succeed ho

theorem Block.Inv.encodeBits {b : Block} (h : b.Inv) (ho : b.opst = .ready) (p : Config.Params) :
    (b.encodeBits p).Inv := by
  rcases encodeBits_cases p b with ⟨-, heq⟩ | ⟨-, -, heq⟩ | ⟨-, -, heq⟩
  all_goals rw [heq]
  · exact h.withErr ho (by decide)
  · exact h.raiseFault _
  · generalize hwords : packBits (frameBits p b.payload) = words
    have hlen : words.length = 55 := by rw [← hwords, length_packBits]
    have hinv : ({ b with cw := b.cw.setRange 0 words, dv := true, cv := false } : Block).Inv :=
      ⟨Block.memoriesOk_storeCodewords h.memories (by omega), h.outcome, h.cursor, h.spos, nofun⟩
    exact hinv.succeed ho

theorem Block.Inv.encodeEc {b : Block} (h : b.Inv) (ho : b.opst = .ready) (p : Config.Params) :
    (b.encodeEc p).Inv := by
  rcases encodeEc_cases p b with ⟨-, heq⟩ | ⟨hdv, heq⟩
  all_goals rw [heq]
  · exact h.withErr ho (by decide)
  · have hlen : (rsEc p b.dataWords).length = 15 := length_rsEc p b.length_dataWords
    generalize rsEc p b.dataWords = ec at hlen
    have hinv : ({ b with cw := b.cw.setRange 55 ec, cv := true } : Block).Inv :=
      ⟨Block.memoriesOk_storeCodewords h.memories (by omega), h.outcome, h.cursor, h.spos, fun _ => hdv⟩
    exact hinv.succeed ho

/-! ### PLACE -/

/-- One pass of PLACE's loop at the n-th cursor keeps the invariant and moves on to the next cursor. -/
theorem placeVisit_inv {b : Block} (h : b.Inv) {n : Nat} (hn : n < 812) (hc : b.cursor = cursorAt n) :
    (placeVisit Config.params b).1.Inv ∧ (placeVisit Config.params b).1.cursor = cursorAt (n + 1) := by
  have hinv := h.yieldCoord hn hc
  have hcur := (Block.cursorOk_yieldCoord hn hc).1
  rcases placeVisit_cases Config.params b with ⟨-, heq⟩ | ⟨-, -, heq⟩ | ⟨-, -, heq⟩ | ⟨hs, -, heq⟩
  all_goals rw [heq]
  · exact ⟨hinv, hcur⟩
  · exact ⟨hinv, hcur⟩
  · exact ⟨hinv, hcur⟩
  · have hbounds := cursorAt_bounds n
    rw [← hc] at hbounds
    rw [slen_default] at hs
    have hspos : (b.spos + 1).toNat ≤ 567 := by bv_omega
    exact ⟨⟨Block.memoriesOk_storeCell hinv.memories (by omega) (by omega) (legalCode_code _), hinv.outcome,
      hinv.cursor, hspos, hinv.flags⟩, hcur⟩

/-- From a cursor of the traversal, the loop keeps the invariant for any number of passes. -/
theorem placeLoop_inv (passes : Nat) {b : Block} (h : b.Inv) {n : Nat} (hc : b.cursor = cursorAt n) :
    (placeLoop Config.params passes b).1.Inv := by
  induction passes generalizing b n with
  | zero => exact h
  | succ k ih =>
    rw [placeLoop]
    by_cases hz : b.cursor.zv = true
    · have hn : n < 812 := by rw [hc, cursorAt_zv] at hz; simpa using hz
      have hvisit := placeVisit_inv h hn hc
      rw [if_pos hz]
      generalize placeVisit Config.params b = r at hvisit ⊢
      obtain ⟨b', _ | f⟩ := r
      · exact ih hvisit.1 hvisit.2
      · exact hvisit.1
    · rw [if_neg hz]
      exact h

theorem Block.Inv.placeStart {b : Block} (h : b.Inv) : b.placeStart.Inv :=
  ⟨h.memories, h.outcome, Block.cursorOk_start h.cursor, Nat.zero_le _, h.flags⟩

theorem Block.Inv.placeStream {b : Block} (h : b.Inv) (ho : b.opst = .ready) : (b.placeStream Config.params).Inv := by
  have hloop := placeLoop_inv Config.numCoords h.placeStart (n := 0) cursorAt_zero.symm
  have hopst : (placeLoop Config.params Config.numCoords b.placeStart).1.opst = .ready := by
    rw [placeLoop_keeps]; exact ho
  rcases placeStream_cases Config.params b with
    ⟨-, heq⟩ | ⟨b', f, -, hl, heq⟩ | ⟨b', -, hl, -, heq⟩ | ⟨b', -, hl, -, heq⟩
  all_goals rw [heq]
  · exact h.withErr ho (by decide)
  all_goals rw [hl] at hloop hopst
  · exact hloop.raiseFault f
  · exact hloop.raiseFault .count
  · have hinv : ({ b' with pv := true } : Block).Inv :=
      ⟨hloop.memories, hloop.outcome, hloop.cursor, hloop.spos, hloop.flags⟩
    exact hinv.succeed hopst

/-! ### Every step -/

theorem effect_inv {b : Block} (h : b.Inv) (ho : b.opst = .ready) (i : Instr) : (effect i b).Inv := by
  cases i with
  | nop => exact h.succeed ho
  | clr => exact Block.inv_reset
  | bsenc => exact h.encodeBits ho _
  | rsenc => exact h.encodeEc ho _
  | zzinit => exact h.initTraversal ho
  | zznext => exact h.nextCoord ho
  | gclr => exact h.clearGrid ho
  | place => exact h.placeStream ho

/-- Settles O52: each effect of a step keeps the invariant. -/
theorem everyStepKeepsBlockInvariant : Obligations.EveryStepKeepsBlockInvariant := by
  intro s t h hstep
  cases stepEffect_of_step hstep with
  | unchanged hb => exact hb ▸ h
  | reset hr hb => exact hb ▸ Block.inv_reset
  | command i hi hb => exact hb ▸ effect_inv h hi.1 i
  | badCommand v hi hb => exact hb ▸ h.withErr hi.1 (by decide)
  | push v rest ho hs hb => exact hb ▸ h.push v
  | cellWrite x y v ho hx hy hb => exact hb ▸ h.writeCell v hx hy

end Sys2Proof.Machine
end

section
/-! SUPPORT. The frame of a payload in closed form (41_bitstream.md R143 to R153): the frame is a sequence of whole
bytes, the header and the payload moved by half a byte and then the pad codewords, and packing reads those bytes
back. -/

namespace Sys2Proof.Machine

/-! ### Bytes as bits -/

/-- The bits of some bytes, each most significant bit first (00_scope.md R8). -/
def bytesBits (vs : List Byte) : List Bool := vs.flatMap fun v => bitsMsb v.toNat 8

@[simp] theorem bytesBits_cons (v : Byte) (vs : List Byte) : bytesBits (v :: vs) =
    bitsMsb v.toNat 8 ++ bytesBits vs := rfl

theorem bytesBits_append (vs ws : List Byte) : bytesBits (vs ++ ws) = bytesBits vs ++ bytesBits ws :=
  List.flatMap_append

@[simp] theorem length_bytesBits (vs : List Byte) : (bytesBits vs).length = 8 * vs.length := by
  induction vs with
  | nil => rfl
  | cons v vs ih => rw [bytesBits_cons, List.length_append, ih, length_bitsMsb, List.length_cons]; omega

theorem byteOf_bitsMsb : ∀ v : Byte, byteOf (bitsMsb v.toNat 8) = v := by decide +kernel

/-- The bits of a byte are those of its high nibble and then those of its low one. -/
theorem bitsMsb_append (a b : BitVec 4) : bitsMsb (a ++ b).toNat 8 = bitsMsb a.toNat 4 ++ bitsMsb b.toNat 4 := by
  revert a b; decide +kernel

theorem append_nibbles (v : Byte) : v.extractLsb' 4 4 ++ v.extractLsb' 0 4 = v := by
  revert v; decide +kernel

/-- Eight bits from position 8c on are byte c. -/
theorem take_drop_bytesBits {vs : List Byte} {c : Nat} (hc : c < vs.length) :
    ((bytesBits vs).drop (8 * c)).take 8 = bitsMsb vs[c].toNat 8 := by
  induction vs generalizing c with
  | nil => simp at hc
  | cons v vs ih =>
    cases c with
    | zero => simp
    | succ c =>
      have hpos : 8 * (c + 1) = (bitsMsb v.toNat 8).length + 8 * c := by rw [length_bitsMsb]; omega
      rw [bytesBits_cons, hpos, List.drop_length_add_append, ih (by simpa using hc), List.getElem_cons_succ]

/-- Packing reads back the bytes whose bits it is given (R151). -/
theorem packBits_bytesBits {vs : List Byte} (hlen : vs.length = 55) : packBits (bytesBits vs) = vs := by
  refine List.ext_getElem (by rw [length_packBits, hlen]) fun c _ hc => ?_
  simp only [packBits, List.getElem_map, List.getElem_range]
  rw [take_drop_bytesBits hc, byteOf_bitsMsb]

/-! ### The header and the payload, moved by half a byte -/

/-- A nibble and then some bytes and a zero nibble, cut into bytes. -/
def shiftNibble (carry : BitVec 4) : List Byte → List Byte
  | [] => [carry ++ 0x0#4]
  | v :: vs => (carry ++ v.extractLsb' 4 4) :: shiftNibble (v.extractLsb' 0 4) vs

@[simp] theorem length_shiftNibble (carry : BitVec 4) (vs : List Byte) :
    (shiftNibble carry vs).length = vs.length + 1 := by
  induction vs generalizing carry with
  | nil => rfl
  | cons v vs ih => simp [shiftNibble, ih]

theorem bytesBits_shiftNibble (carry : BitVec 4) (vs : List Byte) :
    bytesBits (shiftNibble carry vs) = bitsMsb carry.toNat 4 ++ bytesBits vs ++ List.replicate 4 false := by
  induction vs generalizing carry with
  | nil => rw [shiftNibble, bytesBits_cons, bitsMsb_append]; rfl
  | cons v vs ih =>
    have hv : bitsMsb v.toNat 8 = bitsMsb (v.extractLsb' 4 4).toNat 4 ++ bitsMsb (v.extractLsb' 0 4).toNat 4 := by
      rw [← bitsMsb_append, append_nibbles]
    rw [shiftNibble, bytesBits_cons, bitsMsb_append, ih, bytesBits_cons, hv]
    simp only [List.append_assoc]

/-- Byte c of the shifted sequence: the low nibble before it and the high nibble of its own byte. -/
theorem getD_shiftNibble (carry : BitVec 4) (vs : List Byte) {c : Nat} (hc : c ≤ vs.length) :
    (shiftNibble carry vs).getD c 0x00 =
      (if c = 0 then carry else (vs.getD (c - 1) 0x00).extractLsb' 0 4) ++ (vs.getD c 0x00).extractLsb' 4 4 := by
  induction vs generalizing carry c with
  | nil =>
    obtain rfl : c = 0 := by simpa using hc
    simp [shiftNibble]
  | cons v vs ih =>
    cases c with
    | zero => rfl
    | succ c =>
      rw [shiftNibble, List.getD_cons_succ, ih _ (by simpa using hc)]
      cases c <;> rfl

/-! ### The pad codewords -/

/-- Pad codeword k (R149). -/
def padByte (k : Nat) : Byte := if k % 2 = 0 then Config.pad0 else Config.pad1

/-- Step 6 on whole bytes appends the pad codewords up to 55 bytes (R149). -/
theorem addPads_bytesBits (passes k : Nat) (vs : List Byte) (hle : vs.length ≤ 55) (hp : 55 ≤ vs.length + passes) :
    addPads passes k (bytesBits vs) =
      bytesBits (vs ++ (List.range (55 - vs.length)).map fun j => padByte (k + j)) := by
  induction passes generalizing k vs with
  | zero => simp [addPads, show 55 - vs.length = 0 by omega]
  | succ n ih =>
    rw [addPads, length_bytesBits]
    by_cases hlt : vs.length < 55
    · have happ : bytesBits vs ++ bitsMsb (padByte k).toNat 8 = bytesBits (vs ++ [padByte k]) := by
        rw [bytesBits_append, bytesBits_cons]; exact (congrArg _ (List.append_nil _).symm)
      rw [if_pos (by simp only [Config.capBits]; omega)]
      change addPads n (k + 1) (bytesBits vs ++ bitsMsb (padByte k).toNat 8) = _
      rw [happ, ih _ _ (by simp; omega) (by simp; omega), List.append_assoc, List.length_append, List.length_singleton,
        show 55 - vs.length = (55 - (vs.length + 1)) + 1 by omega, List.range_succ_eq_map]
      simp [Function.comp_def, Nat.add_assoc, Nat.add_comm 1]
    · rw [if_neg (by simp only [Config.capBits]; omega), show 55 - vs.length = 0 by omega]
      simp

/-! ### The frame -/

/-- The 55 data codewords of a payload: the shifted header and payload, then the pad codewords. -/
def frameWords (pay : List Byte) : List Byte :=
  shiftNibble 0x4 (BitVec.ofNat 8 pay.length :: pay) ++ (List.range (53 - pay.length)).map padByte

/-- The frame of a payload that fits is the bits of its 55 codewords (R143 to R149). -/
theorem frameBits_eq_bytesBits {pay : List Byte} (hpay : pay.length ≤ 53) :
    frameBits Config.params pay = bytesBits (frameWords pay) := by
  have hlen : (headerAndPayload Config.params pay).length = 12 + 8 * pay.length := length_headerAndPayload ..
  have hterm : addTerminator (headerAndPayload Config.params pay) =
      bytesBits (shiftNibble 0x4 (BitVec.ofNat 8 pay.length :: pay)) := by
    have hcount : bitsMsb (BitVec.ofNat 8 pay.length).toNat 8 = bitsMsb pay.length 8 := by
      rw [BitVec.toNat_ofNat, Nat.mod_eq_of_lt (by omega)]
    have hmin : min Config.termMax (Config.capBits - (12 + 8 * pay.length)) = 4 := by
      simp only [Config.termMax, Config.capBits]; omega
    rw [addTerminator, hlen, hmin, bytesBits_shiftNibble, bytesBits_cons, hcount, headerAndPayload]
    simp only [List.append_assoc]
    rfl
  have halign : addAlignment (bytesBits (shiftNibble 0x4 (BitVec.ofNat 8 pay.length :: pay))) =
      bytesBits (shiftNibble 0x4 (BitVec.ofNat 8 pay.length :: pay)) := by
    simp [addAlignment]
  rw [frameBits, hterm, halign, addPads_bytesBits _ _ _ (by simp; omega) (by simp [Config.dataLen]), frameWords]
  simp [show 55 - (pay.length + 1 + 1) = 53 - pay.length by omega]

theorem length_frameWords {pay : List Byte} (hpay : pay.length ≤ 53) : (frameWords pay).length = 55 := by
  simp [frameWords]; omega

/-- The codewords of a payload in closed form (R153). -/
theorem getD_frameWords {pay : List Byte} {c : Nat} (hc : c < 55) : (frameWords pay).getD c 0x00 = frameByte pay c := by
  have hfield : ∀ i, (if i = 0 then BitVec.ofNat 8 pay.length else pay.getD (i - 1) 0x00) =
      (BitVec.ofNat 8 pay.length :: pay).getD i 0x00 := by
    intro i; cases i <;> rfl
  simp only [frameByte, hfield]
  by_cases hshift : c ≤ pay.length + 1
  · rw [frameWords, List.getD_append _ _ _ _ (by simp; omega), getD_shiftNibble _ _ (by simpa using hshift)]
    by_cases h0 : c = 0
    · subst h0; rfl
    · rw [if_neg h0, if_neg h0]
      by_cases hlast : c = pay.length + 1
      · subst hlast
        rw [if_neg (by omega), if_pos rfl, List.getD_eq_default (n := pay.length + 1) _ _ (by simp)]
        rfl
      · rw [if_pos (by omega)]
  · rw [frameWords, List.getD_append_right _ _ _ _ (by simp; omega), if_neg (by omega), if_neg (by omega),
      if_neg (by omega)]
    have hpad : c - 2 - pay.length < 53 - pay.length := by omega
    have hpos : c - (pay.length + 1 + 1) = c - 2 - pay.length := by omega
    simp [List.getD, hpos, List.getElem?_range hpad, padByte]

/-- BSENC's bytes are the closed form of R153. -/
theorem getD_packBits_frameBits {pay : List Byte} (hpay : pay.length ≤ 53) {c : Nat} (hc : c < 55) :
    (packBits (frameBits Config.params pay)).getD c 0x00 = frameByte pay c := by
  rw [frameBits_eq_bytesBits hpay, packBits_bytesBits (length_frameWords hpay), getD_frameWords hc]

end Sys2Proof.Machine
end

section
/-! SUPPORT. DV and CV tell the truth about CW after every step (10_state.md R23, R33): BSENC stores a frame, RSENC the
remainder of the present data codewords, and every other effect leaves CW, DV and CV or clears both flags. -/

namespace Sys2Proof.Machine

/-- What DV and CV say depends on CW, DV and CV only. -/
theorem Block.CodewordsOk.congr {b b' : Block} (h : b.CodewordsOk) (hcw : b'.cw = b.cw) (hdv : b'.dv = b.dv)
    (hcv : b'.cv = b.cv) : b'.CodewordsOk where
  data := by rw [hdv, hcw]; exact h.data
  ec := by rw [hcv, Block.ecWords, Block.dataWords, hcw]; exact h.ec

/-- A range of a memory is the list that its bytes agree with. -/
theorem Memory.getRange_eq {m : Memory} {base n : Nat} {vs : List Byte} (hlen : vs.length = n)
    (h : ∀ i, i < n → m.get (base + i) = vs.getD i 0x00) : m.getRange base n = vs := by
  refine List.ext_getElem (by rw [Memory.length_getRange, hlen]) fun i hi hi' => ?_
  rw [Memory.length_getRange] at hi
  rw [← List.getD_eq_getElem _ 0x00, Memory.getD_getRange m hi, h i hi, List.getD_eq_getElem]

theorem Block.CodewordsOk.encodeBits {b : Block} (h : b.CodewordsOk) (hcw : b.cw.wf = true) :
    (b.encodeBits Config.params).CodewordsOk := by
  rcases encodeBits_cases Config.params b with ⟨-, heq⟩ | ⟨-, -, heq⟩ | ⟨hfits, -, heq⟩
  all_goals rw [heq]
  · exact h.congr rfl rfl rfl
  · exact h.congr rfl rfl rfl
  · have hpay : b.payload.length ≤ 53 := by
      have hfits : 4 + 8 + 8 * b.plen.toNat ≤ 440 := hfits
      rw [length_payload]
      omega
    refine ⟨fun _ => ⟨b.payload, hpay, fun c hc => ?_⟩, nofun⟩
    rw [Memory.get_setRange hcw, if_pos (by rw [length_packBits]; omega)]
    exact getD_packBits_frameBits hpay hc

theorem Block.CodewordsOk.encodeEc {b : Block} (h : b.CodewordsOk) (hcw : b.cw.wf = true) :
    (b.encodeEc Config.params).CodewordsOk := by
  rcases encodeEc_cases Config.params b with ⟨-, heq⟩ | ⟨hdv, -⟩
  · rw [heq]
    exact h.congr rfl rfl rfl
  · obtain ⟨m, heq, hec, hrest⟩ := encodeEc_stores_rsEc Config.params hdv hcw
    have hdata : m.getRange 0 55 = b.dataWords :=
      Memory.getRange_eq b.length_dataWords fun i hi => by
        rw [hrest _ (by omega)]
        exact (Memory.getD_getRange b.cw hi).symm
    have hlen : (rsEc Config.params b.dataWords).length = 15 := length_rsEc _ b.length_dataWords
    obtain ⟨pay, hpay, hframe⟩ := h.data hdv
    rw [heq]
    refine ⟨fun _ => ⟨pay, hpay, fun c hc => (hrest c (.inl hc)).trans (hframe c hc)⟩, fun _ => ?_⟩
    exact (Memory.getRange_eq hlen hec).trans (congrArg _ hdata.symm)

theorem effect_codewordsOk {b : Block} (h : b.CodewordsOk) (hcw : b.cw.wf = true) (i : Instr) :
    (effect i b).CodewordsOk := by
  cases i with
  | clr => exact Block.codewordsOk_reset
  | bsenc => exact h.encodeBits hcw
  | rsenc => exact h.encodeEc hcw
  | nop | zzinit | zznext | gclr | place =>
    exact h.congr (by simp [effect]) (by simp [effect]) (by simp [effect])

/-- Settles O54: each effect of a step keeps what DV and CV say. -/
theorem everyStepKeepsCodewordsValid : Obligations.EveryStepKeepsCodewordsValid := by
  intro s t hinv h hstep
  cases stepEffect_of_step hstep with
  | unchanged hb => exact hb ▸ h
  | reset hr hb => exact hb ▸ Block.codewordsOk_reset
  | command i hi hb => exact hb ▸ effect_codewordsOk h hinv.cw_wf i
  | badCommand v hi hb | push v rest ho hs hb | cellWrite x y v ho hx hy hb => exact hb ▸ h.congr rfl rfl rfl

end Sys2Proof.Machine
end

section
/-! SUPPORT. The address map from the addresses' side and what it gives the host bus: the windows, the addresses that
ignore writes, the gate of FAULTED and the cell write (20_memory.md R61 to R63, R68 to R74). -/

namespace Sys2Proof.Machine

/-! ### The address map of the windows and of the reserved ranges (R62, R69, R71) -/

/-- A number below 0x1000 is the address it names (R61). -/
theorem toNat_addr {n : Nat} (hn : n < 0x1000) : (BitVec.ofNat 12 n).toNat = n := by
  rw [BitVec.toNat_ofNat, Nat.mod_eq_of_lt hn]

theorem target_cwWindow {i : Nat} (hi : i < 70) : target (BitVec.ofNat 12 (0x080 + i)) = .cw i := by
  have ha : (BitVec.ofNat 12 (0x080 + i)).toNat = 0x080 + i := toNat_addr (by omega)
  rw [target_of_ge _ (by omega), ha, if_pos (by omega), Nat.add_sub_cancel_left]

theorem target_payWindow {i : Nat} (hi : i < 64) : target (BitVec.ofNat 12 (0x100 + i)) = .pay i := by
  have ha : (BitVec.ofNat 12 (0x100 + i)).toNat = 0x100 + i := toNat_addr (by omega)
  rw [target_of_ge _ (by omega), ha, if_neg (by omega), if_pos (by omega), Nat.add_sub_cancel_left]

/-- A GRID window address selects its cell when both coordinates are below 29, and is a hole otherwise. -/
theorem target_gridWindow {x y : Nat} (hx : x < 32) (hy : y < 32) :
    target (BitVec.ofNat 12 (0x400 + 32 * y + x)) = if x < 29 ∧ y < 29 then .cell x y else .reserved := by
  have ha : (BitVec.ofNat 12 (0x400 + 32 * y + x)).toNat = 0x400 + 32 * y + x := toNat_addr (by omega)
  have hoff : 0x400 + 32 * y + x - 0x400 = 32 * y + x := by omega
  have hmod : (32 * y + x) % 32 = x := by omega
  have hdiv : (32 * y + x) / 32 = y := by omega
  rw [target_of_ge _ (by omega), ha, if_neg (by omega), if_neg (by omega), if_pos (by omega), hoff]
  simp only [gridTarget, Config.gridStride, Config.gridSize, hmod, hdiv]

theorem target_cell {x y : Nat} (hx : x < 29) (hy : y < 29) :
    target (BitVec.ofNat 12 (0x400 + 32 * y + x)) = .cell x y := by
  rw [target_gridWindow (by omega) (by omega), if_pos ⟨hx, hy⟩]

theorem target_hole {x y : Nat} (hx : x < 32) (hy : y < 32) (hole : 28 < x ∨ 28 < y) :
    target (BitVec.ofNat 12 (0x400 + 32 * y + x)) = .reserved := by
  rw [target_gridWindow hx hy, if_neg (by omega)]

theorem target_reserved {a : Addr} (h : reservedAddr a.toNat) : target a = .reserved := by
  unfold reservedAddr at h
  rw [target_of_ge a (by omega), if_neg (by omega), if_neg (by omega), if_neg (by omega)]

/-- A read-only address is a register that is no write port, or a byte of the CW or the PAY window. -/
theorem target_readOnly {a : Addr} (h : readOnlyAddr a.toNat) :
    target a ≠ .cmd ∧ target a ≠ .pdata ∧ ∀ x y, target a ≠ .cell x y := by
  unfold readOnlyAddr at h
  rcases target_cases a with ⟨hlt, ht⟩ | ⟨i, -, -, ht⟩ | ⟨i, -, -, ht⟩ | ⟨x, y, -, -, ha, -⟩ | ⟨-, ht⟩
  · have h0 : a.toNat ≠ 0 := by omega
    have h5 : a.toNat ≠ 5 := by omega
    rw [ht]
    interval_cases a.toNat <;> simp at h0 h5 ⊢
  · simp [ht]
  · simp [ht]
  · omega
  · simp [ht]

theorem eq_of_target_status {a : Addr} (h : target a = .status) : a = 0x001 := by
  rcases target_cases a with ⟨hlt, ht⟩ | ⟨i, -, -, ht⟩ | ⟨i, -, -, ht⟩ | ⟨x, y, -, -, -, ht⟩ | ⟨-, ht⟩
  all_goals rw [ht] at h
  · rw [← BitVec.toNat_inj]
    interval_cases a.toNat <;> simp at h ⊢
  all_goals cases h

/-! ### Reads (R61, R63, R68, R74) -/

theorem hostRead_of_target_reserved (b : Block) {a : Addr} (ht : target a = .reserved) : hostRead b a = 0x00 := by
  rw [hostRead, ht]

/-- No address but STATUS shows the operating state. -/
theorem hostRead_withOpst (b : Block) (o : OpState) {a : Addr} (ha : a ≠ 0x001) :
    hostRead b a = hostRead { b with opst := o } a := by
  unfold hostRead
  cases ht : target a with
  | status => exact absurd (eq_of_target_status ht) ha
  | _ => rfl

theorem step_read {s : State} {a : Addr} {rest : List Transaction} (hs : s.script = .read a :: rest) :
    step s = .next { s with script := rest, replies := hostRead s.block a :: s.replies } := by
  simp only [step, stepTransaction, hs, transact]

/-- Settles O7, by the law of a read. -/
theorem hostReadLeavesBlock : Obligations.HostReadLeavesBlock := fun _ _ _ hs => step_read hs

/-! ### The registers (10_state.md R28, R30, R31) -/

/-- Zero bits above a number leave the number. -/
theorem toNat_zero_append {m n : Nat} (c : BitVec n) : (0#m ++ c).toNat = c.toNat := by
  simp [BitVec.toNat_append]

theorem toNat_coordByte (c : Coord) : (coordByte c).toNat = c.toNat := toNat_zero_append c

theorem Block.toNat_sposLow (b : Block) : b.sposLow.toNat = b.spos.toNat % 256 := by
  rw [Block.sposLow, BitVec.extractLsb'_toNat, Nat.shiftRight_zero]

theorem Block.toNat_sposHigh (b : Block) : b.sposHigh.toNat = b.spos.toNat / 256 := by
  have hlt : b.spos.toNat < 1024 := b.spos.isLt
  calc b.sposHigh.toNat = (b.spos.extractLsb' 8 2).toNat := toNat_zero_append _
    _ = b.spos.toNat / 256 % 4 := by rw [BitVec.extractLsb'_toNat, Nat.shiftRight_eq_div_pow]
    _ = b.spos.toNat / 256 := by omega

/-- Settles O8: each register's byte is its view, and a view has the number of its register. -/
theorem registersReadAtTheirAddresses : Obligations.RegistersReadAtTheirAddresses := by
  intro b
  exact ⟨rfl, rfl, rfl, rfl, rfl, toNat_coordByte _, toNat_coordByte _, toNat_coordByte _, toNat_coordByte _,
    b.toNat_sposLow, b.toNat_sposHigh⟩

/-! ### The windows (R69, R72, R73) -/

/-- Settles O10: each window address selects its byte, and the code of a cell decodes back to it. -/
theorem windowsShowTheirMemories : Obligations.WindowsShowTheirMemories := by
  intro b
  refine ⟨fun i hi => ?_, fun i hi => ?_, fun x y hx hy => ?_⟩
  · rw [hostRead, target_cwWindow hi]
  · rw [hostRead, target_payWindow hi]
  · have hread : hostRead b (BitVec.ofNat 12 (0x400 + 32 * y + x)) = (b.cell x y).code := by
      rw [hostRead, target_cell hx hy]
    exact ⟨hread, by rw [hread, Module.ofCode_code]⟩

/-! ### Writes (R63, R70, R74) -/

theorem step_write {s : State} {a : Addr} {v : Byte} {rest : List Transaction} (hs : s.script = .write a v :: rest) :
    step s = .next { s with script := rest, block := s.block.whenReady (writeEffect a v) } := by
  simp only [step, stepTransaction, hs, transact, hostWrite_eq, State.mapBlock]

theorem Block.whenReady_id (b : Block) : b.whenReady id = b := by
  cases ho : b.opst with
  | ready => rw [Block.whenReady_ready ho, id]
  | faulted => exact Block.whenReady_faulted ho

/-- An address that selects no write port and no cell ignores a write. -/
theorem step_write_ignored {s : State} {a : Addr} {v : Byte} {rest : List Transaction}
    (hs : s.script = .write a v :: rest)
    (ht : target a ≠ .cmd ∧ target a ≠ .pdata ∧ ∀ x y, target a ≠ .cell x y) :
    step s = .next { s with script := rest } := by
  obtain ⟨hcmd, hpdata, hcell⟩ := ht
  have hid : writeEffect a v = id := by
    unfold writeEffect
    split
    · exact absurd ‹_› hcmd
    · exact absurd ‹_› hpdata
    · exact absurd ‹_› (hcell _ _)
    · rfl
  rw [step_write hs, hid, Block.whenReady_id]

theorem step_write_reserved {s : State} {a : Addr} {v : Byte} {rest : List Transaction}
    (hs : s.script = .write a v :: rest) (ht : target a = .reserved) : step s = .next { s with script := rest } :=
  step_write_ignored hs (by simp [ht])

theorem step_write_faulted {s : State} {a : Addr} {v : Byte} {rest : List Transaction}
    (hs : s.script = .write a v :: rest) (hf : s.block.opst = .faulted) : step s = .next { s with script := rest } := by
  rw [step_write hs, Block.whenReady_faulted hf]

/-- Settles O11: the reserved ranges select nothing, and a read-only address is no write port and no cell. -/
theorem unassignedAddressesAreInert : Obligations.UnassignedAddressesAreInert := by
  refine ⟨fun b a ha => ?_, fun s a v rest hs ha => ?_⟩
  · rcases ha with hres | rfl | rfl
    · exact hostRead_of_target_reserved b (target_reserved hres)
    · rfl
    · rfl
  · rcases ha with hres | hro
    · exact step_write_reserved hs (target_reserved hres)
    · exact step_write_ignored hs (target_readOnly hro)

/-- Settles O12: a hole selects nothing; the count runs over the window's 1024 offsets. -/
theorem gridWindowHolesAreInert : Obligations.GridWindowHolesAreInert := by
  refine ⟨fun b x y hx hy hole => ?_, fun s x y v rest hx hy hole hs => ?_, ?_⟩
  · exact hostRead_of_target_reserved b (target_hole hx hy hole)
  · exact step_write_reserved hs (target_hole hx hy hole)
  · decide +kernel

/-- Settles O13: the gate of FAULTED stands before every command and write, and of the effects of a step only a reset
needs no READY block. -/
theorem faultedBlockIgnoresWrites : Obligations.FaultedBlockIgnoresWrites := by
  intro s hf
  have hnot : s.block.opst ≠ .ready := by simp [hf]
  refine ⟨fun i => exec_faulted i hf, fun a v rest hs => step_write_faulted hs hf, fun a rest hs => ?_,
    fun t hstep hready => ?_⟩
  · exact ⟨step_read hs, hostRead_withOpst s.block .ready⟩
  · cases stepEffect_of_step hstep with
    | unchanged hb => exact absurd (hb ▸ hready) hnot
    | reset hr hb => exact hr
    | command i hi hb => exact absurd hi.1 hnot
    | badCommand v hi hb => exact absurd hi.1 hnot
    | push v rest ho hs hb => exact absurd ho hnot
    | cellWrite x y v ho hx hy hb => exact absurd ho hnot

/-! ### The cell write (R70) -/

theorem legalise_of_bit2 : ∀ v : Byte, v.getLsbD 2 = true → legalise v = v &&& 0x07 := by decide

theorem legalise_of_not_bit2 : ∀ v : Byte, v.getLsbD 2 = false → legalise v = v &&& 0x02 := by decide

theorem writeEffect_cell {x y : Nat} (hx : x < 29) (hy : y < 29) (v : Byte) :
    writeEffect (BitVec.ofNat 12 (0x400 + 32 * y + x)) v = Block.writeCell x y v := by
  rw [writeEffect, target_cell hx hy]

/-- Settles O14: the write is writeCell, and the grid is read after one store at the cell's index. -/
theorem cellWriteIsLegalised : Obligations.CellWriteIsLegalised := by
  intro s x y v rest ho hwf hx hy hs
  have hget (k : Nat) : (s.block.grid.set (32 * y + x) (legalise v)).get k =
      if 32 * y + x = k then legalise v else s.block.grid.get k := Memory.get_set hwf _ k _
  have hcell : (s.block.grid.set (32 * y + x) (legalise v)).get (32 * y + x) = legalise v := by
    rw [hget, if_pos rfl]
  refine ⟨s.block.grid.set (32 * y + x) (legalise v), ?_, fun k hk => ?_, fun h2 => ?_, fun h2 => ?_, ?_⟩
  · rw [step_write hs, Block.whenReady_ready ho, writeEffect_cell hx hy]
    rfl
  · rw [hget, if_neg hk.symm]
  · rw [hcell, legalise_of_bit2 v h2]
  · rw [hcell, legalise_of_not_bit2 v h2]
  · rw [hcell]
    exact legalCode_legalise v

end Sys2Proof.Machine
end

section
/-! SUPPORT. The decoder and the encoder as inverses on the whole byte, and the host script's pseudo-instructions
(30_encoding.md R90 to R92, R100). -/

namespace Sys2Proof.Machine

/-! ### The command codes -/

/-- Settles O1: the eight codes are the bytes that encode writes. -/
theorem commandCodesDecode : Obligations.CommandCodesDecode :=
  ⟨decode_encode .nop, decode_encode .clr, decode_encode .bsenc, decode_encode .rsenc,
    decode_encode .zzinit, decode_encode .zznext, decode_encode .gclr, decode_encode .place⟩

/-- The decoder has one reason to refuse a byte, and it names that byte (R92). -/
theorem eq_reservedCode_of_decode {v : Byte} {r : DecodeReject} (h : decode v = .error r) : r = .reservedCode v := by
  unfold decode at h
  split at h <;> cases h
  rfl

/-- A byte that is no command's code is rejected by name (R92). -/
theorem decode_of_ne_encode {v : Byte} (hv : ∀ i, v ≠ encode i) : decode v = .error (.reservedCode v) := by
  cases hd : decode v with
  | ok i => exact absurd (eq_encode_of_decode hd) (hv i)
  | error r => rw [eq_reservedCode_of_decode hd]

/-- The codes that encode writes are the eight of R91. -/
theorem encode_mem_codes (i : Instr) :
    encode i ∈ [0x00#8, 0x01#8, 0x10#8, 0x20#8, 0x30#8, 0x31#8, 0x40#8, 0x41#8] := by
  cases i <;> decide

/-- Settles O2: a byte outside the list of codes is no command's code, so the decoder refuses it. -/
theorem decodeEncodeAgree : Obligations.DecodeEncodeAgree := by
  refine ⟨decode_encode, fun b i hd => (eq_encode_of_decode hd).symm, fun b hb => decode_of_ne_encode fun i hi => ?_⟩
  exact hb (hi ▸ encode_mem_codes i)

/-! ### The pseudo-instructions -/

/-- A command's mnemonic is one write of its code to CMD (R100). -/
theorem expand_cmd (i : Instr) : expand (.cmd i) = [.write 0x000 (encode i)] := rfl

/-- The address of a cell as GSET and GGET write it (R100). -/
theorem cellAddr_eq (x y : Nat) : cellAddr x y = BitVec.ofNat 12 (0x400 + 32 * y + x) := by
  rw [cellAddr, cellIndex, Config.gridStride, Nat.add_assoc]

/-- Settles O18: the mnemonics by their codes, GSET and GGET by the address of the cell, the other rows as expand
writes them. -/
theorem pseudoInstructionsExpand : Obligations.PseudoInstructionsExpand := by
  refine ⟨expand_cmd .nop, expand_cmd .clr, expand_cmd .bsenc, expand_cmd .rsenc, expand_cmd .zzinit,
    expand_cmd .zznext, expand_cmd .gclr, expand_cmd .place, fun v => rfl, fun l => rfl, fun x y c => ?_,
    fun x y => ?_, fun i => rfl⟩
  · rw [expand, cellAddr_eq]
  · rw [expand, cellAddr_eq]

end Sys2Proof.Machine
end

section
/-! SUPPORT. The product by shift and add is the commutative, associative and distributive product of a ring, whatever
the polynomial, because doubling is linear; over the default field the product by the log and antilog tables is the
same, and so are its laws (40_gf256_tables.md R121 to R127). -/

namespace Sys2Proof.Machine

/-! ### Doubling (R122, R124) -/

/-- Doubling as a shift and a conditional XOR, the form in which it is linear bit by bit. -/
theorem gfDouble_eq (prim : Nat) (v : Byte) :
    gfDouble prim v = (v <<< 1) ^^^ (if v.msb then BitVec.ofNat 8 prim else 0x00) := by
  have hshift : BitVec.ofNat 8 (2 * v.toNat) = v <<< 1 := by
    apply BitVec.eq_of_toNat_eq
    rw [BitVec.toNat_ofNat, BitVec.toNat_shiftLeft, Nat.shiftLeft_eq, Nat.mul_comm]
  by_cases h : 2 * v.toNat < 256
  · have hmsb : v.msb = false := BitVec.msb_eq_false_iff_two_mul_lt.2 h
    rw [gfDouble, if_pos h, hshift, hmsb]
    exact BitVec.xor_zero.symm
  · have hmsb : v.msb = true := BitVec.msb_eq_true_iff_two_mul_ge.2 (Nat.le_of_not_lt h)
    rw [gfDouble, if_neg h, BitVec.ofNat_xor, hshift, hmsb, if_pos rfl]

theorem gfDouble_xor (prim : Nat) (v w : Byte) :
    gfDouble prim (v ^^^ w) = gfDouble prim v ^^^ gfDouble prim w := by
  rw [gfDouble_eq, gfDouble_eq, gfDouble_eq, BitVec.shiftLeft_xor_distrib, BitVec.msb_xor]
  have hif : (if v.msb ^^ w.msb then BitVec.ofNat 8 prim else 0x00) =
      (if v.msb then BitVec.ofNat 8 prim else 0x00) ^^^ (if w.msb then BitVec.ofNat 8 prim else 0x00) := by
    cases v.msb <;> cases w.msb <;> simp
  rw [hif]
  ac_rfl

/-! ### Shift and add (R124) -/

/-- The sum so far is only XORed to the rest of the product. -/
theorem gfMulShiftLoop_eq_xor (prim i : Nat) (a b r : Byte) :
    gfMulShiftLoop prim i a b r = r ^^^ gfMulShiftLoop prim i a b 0x00 := by
  induction i generalizing a b r with
  | zero => exact BitVec.xor_zero.symm
  | succ i ih =>
    rw [gfMulShiftLoop, gfMulShiftLoop, ih, ih (r := ite ..)]
    split <;> simp [BitVec.xor_assoc]

theorem gfMulShiftLoop_succ (prim i : Nat) (a b : Byte) :
    gfMulShiftLoop prim (i + 1) a b 0x00 =
      (if b.getLsbD 0 then a else 0x00) ^^^ gfMulShiftLoop prim i (gfDouble prim a) (b >>> 1) 0x00 := by
  rw [gfMulShiftLoop, gfMulShiftLoop_eq_xor]
  simp

theorem gfMulShiftLoop_xor (prim i : Nat) (a a' b : Byte) :
    gfMulShiftLoop prim i (a ^^^ a') b 0x00 =
      gfMulShiftLoop prim i a b 0x00 ^^^ gfMulShiftLoop prim i a' b 0x00 := by
  induction i generalizing a a' b with
  | zero => exact BitVec.xor_zero.symm
  | succ i ih =>
    rw [gfMulShiftLoop_succ, gfMulShiftLoop_succ, gfMulShiftLoop_succ, gfDouble_xor, ih]
    split
    · ac_rfl
    · simp

/-- A linear map that commutes with doubling commutes with the product by b, for the product by b is a sum of repeated
doublings. -/
theorem map_gfMulShiftLoop {prim : Nat} {f : Byte → Byte} (hxor : ∀ v w, f (v ^^^ w) = f v ^^^ f w)
    (hdouble : ∀ v, f (gfDouble prim v) = gfDouble prim (f v)) (i : Nat) (a b : Byte) :
    f (gfMulShiftLoop prim i a b 0x00) = gfMulShiftLoop prim i (f a) b 0x00 := by
  have hzero : f 0x00 = 0x00 := (hxor 0x00 0x00).trans BitVec.xor_self
  induction i generalizing a b with
  | zero => exact hzero
  | succ i ih => rw [gfMulShiftLoop_succ, gfMulShiftLoop_succ, hxor, ih, hdouble, apply_ite f, hzero]

theorem xor_gfMulShift (prim : Nat) (a a' b : Byte) :
    gfMulShift prim (a ^^^ a') b = gfMulShift prim a b ^^^ gfMulShift prim a' b := gfMulShiftLoop_xor ..

theorem gfMulShift_double_left (prim : Nat) (a b : Byte) :
    gfMulShift prim (gfDouble prim a) b = gfDouble prim (gfMulShift prim a b) :=
  (map_gfMulShiftLoop (gfDouble_xor prim) (fun _ => rfl) 8 a b).symm

theorem gfMulShift_right_comm (prim : Nat) (a b c : Byte) :
    gfMulShift prim (gfMulShift prim a b) c = gfMulShift prim (gfMulShift prim a c) b :=
  map_gfMulShiftLoop (f := (gfMulShift prim · c)) (xor_gfMulShift prim · · c) 
    (gfMulShift_double_left prim · c) 8 a b

/-- The doublings of 1 that the sum takes, 0x01 to 0x80, stay in the byte, so no polynomial enters. -/
theorem one_gfMulShift (prim : Nat) (b : Byte) : gfMulShift prim 0x01 b = b := by
  have hprim : gfMulShift prim 0x01 b = gfMulShift 0x11D 0x01 b := by
    simp [gfMulShift, gfMulShiftLoop, gfDouble]
  have hdefault : ∀ b, gfMulShift 0x11D 0x01 b = b := by decide +kernel
  rw [hprim, hdefault]

/-- Commutative because multiplying by a and multiplying by b, both from 1 on, may change places. -/
theorem gfMulShift_comm (prim : Nat) (a b : Byte) : gfMulShift prim a b = gfMulShift prim b a := by
  have h := gfMulShift_right_comm prim 0x01 a b
  rwa [one_gfMulShift, one_gfMulShift] at h

theorem gfMulShift_assoc (prim : Nat) (a b c : Byte) :
    gfMulShift prim (gfMulShift prim a b) c = gfMulShift prim a (gfMulShift prim b c) := by
  rw [gfMulShift_comm prim a b, gfMulShift_right_comm, gfMulShift_comm prim _ a]

theorem gfMulShift_xor (prim : Nat) (a b b' : Byte) :
    gfMulShift prim a (b ^^^ b') = gfMulShift prim a b ^^^ gfMulShift prim a b' := by
  rw [gfMulShift_comm, xor_gfMulShift, gfMulShift_comm prim b, gfMulShift_comm prim b']

theorem gfMulShift_zero (prim : Nat) (a : Byte) : gfMulShift prim a 0x00 = 0x00 := by
  simpa using gfMulShift_xor prim a 0x00 0x00

theorem zero_gfMulShift (prim : Nat) (b : Byte) : gfMulShift prim 0x00 b = 0x00 := by
  rw [gfMulShift_comm, gfMulShift_zero]

/-! ### The powers of alpha (R120, R122) -/

theorem gfPow_add (p : Config.Params) (m n : Nat) :
    gfPow p (m + n) = gfMulShift p.gfPrim (gfPow p m) (gfPow p n) := by
  induction m with
  | zero => rw [Nat.zero_add, gfPow, one_gfMulShift]
  | succ m ih => rw [Nat.succ_add, gfPow, gfPow, ih, gfMulShift_assoc]

/-- alpha^255 = 1: the default field's powers start over after 255 steps. -/
theorem gfPow_255 : gfPow Config.params 255 = 0x01 := by decide +kernel

theorem gfPow_periodic : Function.Periodic (gfPow Config.params) 255 := fun e => by
  rw [gfPow_add, gfPow_255, gfMulShift_comm, one_gfMulShift]

/-- An exponent reduced mod 255 looks up the same power in EXP (R125). -/
theorem expAt_mod (e : Nat) : expAt Config.params (e % 255) = gfPow Config.params e := by
  have hlt := Nat.mod_lt e (show 0 < 255 by decide)
  rw [expAt_eq_gfPow _ (by omega), gfPow_periodic.map_mod_nat]

theorem gfPow_logAt (v : Byte) (h : v ≠ 0x00) : gfPow Config.params (logAt Config.params v h) = v := by
  have hlt := logAt_lt fieldOk_default v h
  rw [← expAt_eq_gfPow _ (by omega), expAt_logAt fieldOk_default v h]

/-- The product with the default alpha is the step of R122. -/
theorem gfMulShift_alpha (prim : Nat) (v : Byte) : gfMulShift prim 0x02 v = gfDouble prim v := by
  rw [show (0x02 : Byte) = gfDouble prim 0x01 from rfl, gfMulShift_double_left, one_gfMulShift]

/-! ### The product by tables is the product by shift and add -/

/-- The powers of alpha turn the sum of the logarithms into the product. -/
theorem gfMul_eq_gfMulShift (a b : Byte) : gfMul Config.params a b = gfMulShift 0x11D a b := by
  by_cases ha : a = 0x00
  · rw [ha, gfMul_zero_left, zero_gfMulShift]
  by_cases hb : b = 0x00
  · rw [hb, gfMul_zero_right, gfMulShift_zero]
  rw [gfMul_of_ne _ ha hb, expAt_mod, gfPow_add, gfPow_logAt, gfPow_logAt]

/-- Settles O27 by `gfMul_eq_gfMulShift`. -/
theorem tableProductIsShiftAndAdd : Obligations.TableProductIsShiftAndAdd := gfMul_eq_gfMulShift

theorem gfMul_gfInv (a : Byte) (h : a ≠ 0x00) : gfMul Config.params a (gfInv Config.params a h) = 0x01 := by
  have hlt := logAt_lt fieldOk_default a h
  calc gfMul Config.params a (gfInv Config.params a h)
      = gfMulShift 0x11D (gfPow Config.params (logAt Config.params a h))
          (gfPow Config.params (255 - logAt Config.params a h)) := by
        rw [gfMul_eq_gfMulShift, gfInv, expAt_mod, gfPow_logAt]
    _ = gfPow Config.params 255 := by rw [← gfPow_add Config.params, Nat.add_sub_cancel' (by omega)]
    _ = 0x01 := gfPow_255

/-- Settles O28: the laws of the product by shift and add, moved to the product by tables by `gfMul_eq_gfMulShift`, and
the inverse because the two logarithms add to 255. -/
theorem fieldLawsHold : Obligations.FieldLawsHold := by
  refine ⟨gfMul_comm _, fun a b c => ?_, fun a b c => ?_, fun a => ?_, gfMul_gfInv⟩
  · simp only [gfMul_eq_gfMulShift, gfMulShift_assoc]
  · simp only [gfMul_eq_gfMulShift, gfMulShift_xor]
  · rw [gfMul_eq_gfMulShift, one_gfMulShift]

/-! ### The tables -/

theorem toNat_gfDouble (v : Byte) :
    (gfDouble 0x11D v).toNat = if 2 * v.toNat < 256 then 2 * v.toNat else 2 * v.toNat ^^^ 0x11D := by
  revert v; decide +kernel

/-- Settles O25: the step of EXP is the product with alpha, which doubles; LOG by `logAt_lt` and `expAt_logAt`. -/
theorem expAndLogTables : Obligations.ExpAndLogTables := by
  refine ⟨rfl, rfl, fun e he => ?_, fun v h => ⟨logAt_lt fieldOk_default v h, expAt_logAt fieldOk_default v h⟩⟩
  rw [expAt_eq_gfPow _ (by omega), expAt_eq_gfPow _ (by omega), gfPow, gfMulShift_alpha, toNat_gfDouble]

/-- alpha^0 to alpha^14 are roots of the printed GEN (R126). -/
theorem gfEval_genTable :
    ∀ i, i < 15 → gfEval Config.params (genTable Config.params) (expAt Config.params i) = 0x00 := by decide +kernel

/-- Settles O26: GEN is the generated product, so its coefficients have the logarithms that admissible parameters give;
its roots by evaluation of the printed table. -/
theorem generatorTables : Obligations.GeneratorTables :=
  ⟨genTable_eq _, length_genTable _, rfl, gfEval_genTable,
    fun _ hj => ⟨genAt_ne_zero fieldOk_default hj, fun _ => genLogAt_eq fieldOk_default hj⟩⟩

end Sys2Proof.Machine
end

section
/-! SUPPORT. BSENC as the host sees it (41_bitstream.md R142 to R153): the frame is exactly 440 bits for every parameter
set, each of its steps only appends, packing keeps every bit, and the command either stores the frame or raises
E_MSG_TOO_LONG. -/

namespace Sys2Proof.Machine

/-! ### The length of the frame (R146 to R150) -/

/-- The frame of a payload that fits fills the capacity: the terminator stays under it, alignment goes to a multiple of
8, and 440 is one. -/
theorem length_frameBits {p : Config.Params} {pay : List Byte} (hfits : 4 + p.ccw + 8 * pay.length ≤ 440) :
    (frameBits p pay).length = 440 := by
  obtain ⟨h8, hle⟩ : (addAlignment (addTerminator (headerAndPayload p pay))).length % 8 = 0 ∧
      (addAlignment (addTerminator (headerAndPayload p pay))).length ≤ 440 := by
    rw [length_addAlignment, length_addTerminator, length_headerAndPayload]
    omega
  exact length_addPads _ _ _ h8 hle (by simp only [Config.dataLen]; omega)

/-- Settles O23, for parameters of any widths. -/
theorem frameFillsCapacityExactly : Obligations.FrameFillsCapacityExactly := fun _ _ _ hfits => length_frameBits hfits

/-! ### The beginning of the frame (R143 to R145) -/

/-- Step 6 only appends. -/
theorem prefix_addPads (passes k : Nat) (bits : List Bool) : bits <+: addPads passes k bits := by
  induction passes generalizing k bits with
  | zero => exact List.prefix_rfl
  | succ n ih =>
    rw [addPads]
    split
    · exact (List.prefix_append ..).trans (ih ..)
    · exact List.prefix_rfl

/-- Steps 4 to 6 only append, so the frame begins with the result of steps 1 to 3. -/
theorem headerAndPayload_prefix_frameBits (p : Config.Params) (pay : List Byte) :
    headerAndPayload p pay <+: frameBits p pay :=
  calc headerAndPayload p pay
    _ <+: addTerminator (headerAndPayload p pay) := List.prefix_append ..
    _ <+: addAlignment (addTerminator (headerAndPayload p pay)) := List.prefix_append ..
    _ <+: frameBits p pay := prefix_addPads ..

/-- The frame up to the end of the payload is the result of steps 1 to 3. -/
theorem take_frameBits (p : Config.Params) (pay : List Byte) :
    (frameBits p pay).take (4 + p.ccw + 8 * pay.length) = headerAndPayload p pay := by
  rw [← length_headerAndPayload, ← List.prefix_iff_eq_take.1 (headerAndPayload_prefix_frameBits p pay)]

/-! ### Packing, bit by bit (R151) -/

theorem getD_bitsMsb (v : Nat) {n k : Nat} (hk : k < n) : (bitsMsb v n).getD k false = v.testBit (n - 1 - k) := by
  simp [bitsMsb, List.getD, hk]

/-- Bit 8c+q of some bytes is bit 7-q of byte c. -/
theorem getD_bytesBits {vs : List Byte} {c q : Nat} (hc : c < vs.length) (hq : q < 8) :
    (bytesBits vs).getD (8 * c + q) false = (vs.getD c 0x00).getLsbD (7 - q) := by
  have hbyte : (bytesBits vs).getD (8 * c + q) false = (((bytesBits vs).drop (8 * c)).take 8).getD q false := by
    simp [List.getD, hq]
  rw [hbyte, take_drop_bytesBits hc, getD_bitsMsb _ hq, List.getD_eq_getElem _ _ hc, BitVec.testBit_toNat]

/-- Settles O24: the frame begins with steps 1 to 3, and it is the bits of the bytes that packing reads back. -/
theorem packedFrameKeepsEveryBit : Obligations.PackedFrameKeepsEveryBit := by
  intro pay hpay
  refine ⟨take_frameBits Config.params pay, fun c q hc hq => ?_⟩
  have hlen := length_frameWords hpay
  rw [frameBits_eq_bytesBits hpay, packBits_bytesBits hlen, getD_bytesBits (by omega) hq]

/-! ### The command (R142, R146, R153) -/

/-- A payload that does not fit is refused before anything is written (R146). -/
theorem encodeBits_of_tooLong {p : Config.Params} {b : Block} (hlong : 440 < 4 + p.ccw + 8 * b.plen.toNat) :
    b.encodeBits p = b.raiseError .msgTooLong := by
  rcases encodeBits_cases p b with ⟨-, heq⟩ | ⟨hfits, -⟩ | ⟨hfits, -⟩
  · exact heq
  · omega
  · omega

/-- On a payload that fits BSENC stores its frame: the length check of R150 cannot fail. -/
theorem encodeBits_of_fits {p : Config.Params} {b : Block} (hfits : 4 + p.ccw + 8 * b.plen.toNat ≤ 440) :
    b.encodeBits p =
      { b with cw := b.cw.setRange 0 (packBits (frameBits p b.payload)), dv := true, cv := false, err := 0x00 } := by
  rcases encodeBits_cases p b with ⟨hlong, -⟩ | ⟨-, hne, -⟩ | ⟨-, -, heq⟩
  · omega
  · exact absurd (length_frameBits (by rwa [length_payload])) hne
  · exact heq

/-- Settles O22: 54 bytes and the 12 bits before them are more than 440 bits. -/
theorem bsencRefusesLongPayload : Obligations.BsencRefusesLongPayload := by
  intro s ho hplen
  have hlong : 440 < 4 + 8 + 8 * s.block.plen.toNat := by omega
  rw [exec_ready .bsenc ho, effect, encodeBits_of_tooLong (p := Config.params) hlong]
  rfl

/-- Settles O21: the 55 bytes stored from index 0 on are the closed form, and CW[55..69] are beyond them. -/
theorem bsencStoresTheFrame : Obligations.BsencStoresTheFrame := by
  intro s ho hshort hcw
  have hfits : 4 + 8 + 8 * s.block.plen.toNat ≤ 440 := by omega
  have hpay : s.block.payload.length ≤ 53 := by rwa [length_payload]
  refine ⟨s.block.cw.setRange 0 (packBits (frameBits Config.params s.block.payload)), ?_, fun c hc => ?_,
    fun c hc => ?_⟩
  · rw [exec_ready .bsenc ho, effect, encodeBits_of_fits (p := Config.params) hfits]
  · rw [Memory.get_setRange hcw, if_pos (by rw [length_packBits]; omega)]
    exact getD_packBits_frameBits hpay hc
  · rw [Memory.get_setRange hcw, if_neg (by rw [length_packBits]; omega)]

end Sys2Proof.Machine
end

section
/-! SUPPORT. RSENC and its division over the default field (42_reed_solomon.md R170 to R175, R179, R181, R182): an
iteration cancels its leading entry and is linear in the window, and the remainder is the shift register's. -/

namespace Sys2Proof.Machine

/-! ### The product's laws the division needs (R121, R124) -/

theorem one_gfMul (a : Byte) : gfMul Config.params 0x01 a = a := by rw [gfMul_eq_gfMulShift, one_gfMulShift]

theorem gfMul_xor (a b b' : Byte) :
    gfMul Config.params a (b ^^^ b') = gfMul Config.params a b ^^^ gfMul Config.params a b' := by
  simp only [gfMul_eq_gfMulShift, gfMulShift_xor]

theorem xor_gfMul (a a' b : Byte) :
    gfMul Config.params (a ^^^ a') b = gfMul Config.params a b ^^^ gfMul Config.params a' b := by
  simp only [gfMul_eq_gfMulShift, xor_gfMulShift]

theorem gfMul_assoc (a b c : Byte) :
    gfMul Config.params (gfMul Config.params a b) c = gfMul Config.params a (gfMul Config.params b c) := by
  simp only [gfMul_eq_gfMulShift, gfMulShift_assoc]

/-! ### Sequences byte by byte -/

theorem ext_getD {vs ws : List Byte} (hlen : vs.length = ws.length)
    (h : ∀ c, c < vs.length → vs.getD c 0x00 = ws.getD c 0x00) : vs = ws :=
  List.ext_getElem hlen fun c hc hc' => by simpa [hc, hc'] using h c hc

theorem getD_zipWith_xor {vs ws : List Byte} (hlen : vs.length = ws.length) (c : Nat) :
    (List.zipWith (· ^^^ ·) vs ws).getD c 0x00 = vs.getD c 0x00 ^^^ ws.getD c 0x00 := by
  by_cases hc : c < vs.length
  · simp [hc, hlen ▸ hc]
  · simp [hc, ← hlen]

theorem getD_zeros (n c : Nat) : (List.replicate n (0x00 : Byte)).getD c 0x00 = 0x00 :=
  List.getElem?_getD_replicate_default_eq ..

theorem xor_zeros {vs : List Byte} {n : Nat} (hlen : vs.length = n) :
    List.zipWith (· ^^^ ·) vs (List.replicate n 0x00) = vs :=
  ext_getD (by simp [hlen]) fun c _ => by
    rw [getD_zipWith_xor (by simpa using hlen), getD_zeros]
    exact BitVec.xor_zero

theorem zeros_xor {vs : List Byte} {n : Nat} (hlen : vs.length = n) :
    List.zipWith (· ^^^ ·) (List.replicate n 0x00) vs = vs := by
  rw [List.zipWith_comm_of_comm BitVec.xor_comm, xor_zeros hlen]

/-! ### An iteration cancels its leading entry (R173, R175) -/

/-- The generator is monic, so its multiple's leading term is the leading entry. -/
theorem getD_divStep_lead {w : List Byte} {i : Nat} (hi : i < w.length) :
    (divStep Config.params w i).getD i 0x00 = 0x00 := by
  have hmonic : genAt Config.params 0 = 0x01 := rfl
  rw [getD_divStep fieldOk_default hi, if_pos ⟨le_rfl, by omega⟩, Nat.sub_self, hmonic, one_gfMul]
  exact BitVec.xor_self

/-- The entries before the leading one stay. -/
theorem getD_divStep_of_lt {w : List Byte} {i c : Nat} (hc : c < w.length) (hci : c < i) :
    (divStep Config.params w i).getD c 0x00 = w.getD c 0x00 := by
  rw [getD_divStep fieldOk_default hc, if_neg (by omega)]

/-- After n iterations the first n entries are zero. -/
theorem getD_divWindow_of_lt {d : List Byte} {n c : Nat} (hn : n ≤ d.length) (hc : c < n) :
    (divWindow Config.params d n).getD c 0x00 = 0x00 := by
  induction n with
  | zero => omega
  | succ n ih =>
    rw [divWindow_succ]
    by_cases hcn : c < n
    · rw [getD_divStep_of_lt (by rw [length_divWindow]; omega) hcn, ih (by omega) hcn]
    · obtain rfl : c = n := by omega
      exact getD_divStep_lead (by rw [length_divWindow]; omega)

/-- Settles O31 by `getD_divWindow_of_lt`. -/
theorem divisionCancelsLeadingEntries : Obligations.DivisionCancelsLeadingEntries :=
  fun _ _ hd hn => ⟨by rw [length_divWindow, hd], fun _ hi => getD_divWindow_of_lt (by omega) hi⟩

/-! ### The command and the shift register (R170, R179, R181) -/

/-- Settles O29: RSENC is its change of a READY block, `encodeEc_stores_rsEc`. -/
theorem rsencStoresRemainder : Obligations.RsencStoresRemainder := by
  intro s ho hdv hcw
  obtain ⟨m, heq, hec, hrest⟩ := encodeEc_stores_rsEc Config.params hdv hcw
  exact ⟨m, by rw [exec_ready .rsenc ho, effect, heq], hec, hrest⟩

/-- Settles O32: the default field parameters are admissible. -/
theorem divisionEqualsShiftRegister : Obligations.DivisionEqualsShiftRegister :=
  fun _ hd => rsEc_eq_lfsr fieldOk_default hd

/-! ### The division is linear (R182) -/

theorem divStep_xor {w w' : List Byte} (hlen : w.length = w'.length) (i : Nat) :
    divStep Config.params (List.zipWith (· ^^^ ·) w w') i =
      List.zipWith (· ^^^ ·) (divStep Config.params w i) (divStep Config.params w' i) := by
  refine ext_getD (by simp) fun c hc => ?_
  have hw : c < w.length := by simp at hc; omega
  rw [getD_zipWith_xor (by simpa using hlen), getD_divStep fieldOk_default (by simpa using hc),
    getD_divStep fieldOk_default hw, getD_divStep fieldOk_default (hlen ▸ hw), getD_zipWith_xor hlen,
    getD_zipWith_xor hlen, gfMul_xor]
  split
  · ac_rfl
  · rfl

theorem divWindow_xor {d d' : List Byte} (hlen : d.length = d'.length) (n : Nat) :
    divWindow Config.params (List.zipWith (· ^^^ ·) d d') n =
      List.zipWith (· ^^^ ·) (divWindow Config.params d n) (divWindow Config.params d' n) := by
  induction n with
  | zero => simp [divWindow_zero, List.zipWith_append hlen]
  | succ n ih => rw [divWindow_succ, divWindow_succ, divWindow_succ, ih, divStep_xor (by simpa using hlen)]

theorem rsEc_xor {d d' : List Byte} (hlen : d.length = d'.length) :
    rsEc Config.params (List.zipWith (· ^^^ ·) d d') =
      List.zipWith (· ^^^ ·) (rsEc Config.params d) (rsEc Config.params d') := by
  rw [rsEc, divWindow_xor hlen, List.drop_zipWith, rsEc, rsEc]

/-- Zero codewords leave the register at zero. -/
theorem lfsr_replicate_zero (n : Nat) : lfsr Config.params (List.replicate n 0x00) = List.replicate 15 0x00 := by
  induction n with
  | zero => rfl
  | succ n ih => rw [List.replicate_succ', lfsr_append_singleton, ih]; decide

/-- The codeword 0x01 feeds the generator itself into an empty register. -/
theorem lfsrStep_zero_one :
    lfsrStep Config.params (List.replicate 15 0x00) 0x01 =
      (List.range 15).map fun k => genAt Config.params (k + 1) := by
  decide

/-- Settles O34: linearity of each iteration, and the two messages of zeros by the shift register. -/
theorem remainderIsLinear : Obligations.RemainderIsLinear := by
  refine ⟨fun d d' hd hd' => rsEc_xor (hd.trans hd'.symm), ?_, ?_, rfl⟩
  · rw [rsEc_eq_lfsr fieldOk_default rfl, lfsr_replicate_zero]
  · rw [rsEc_eq_lfsr fieldOk_default rfl, lfsr_append_singleton, lfsr_replicate_zero, lfsrStep_zero_one]

end Sys2Proof.Machine
end

section
/-! SUPPORT. The codewords vanish at the generator's roots (42_reed_solomon.md R180): an iteration of the division adds
a multiple of the generator, so the window keeps its value there, and the codewords are the first window and the last
one added. -/

namespace Sys2Proof.Machine

/-! ### Evaluation (R180) -/

theorem gfEval_append_singleton (p : Config.Params) (vs : List Byte) (v x : Byte) :
    gfEval p (vs ++ [v]) x = gfMul p (gfEval p vs x) x ^^^ v := by
  simp [gfEval, gfAdd]

/-- What stands after a polynomial that vanishes at x is evaluated as if it stood alone. -/
theorem gfEval_append_of_root {p : Config.Params} {vs : List Byte} {x : Byte} (h : gfEval p vs x = 0x00)
    (ws : List Byte) : gfEval p (vs ++ ws) x = gfEval p ws x := by
  rw [gfEval, List.foldl_append, ← gfEval, h, gfEval]

theorem gfEval_replicate_zero (p : Config.Params) (n : Nat) (x : Byte) :
    gfEval p (List.replicate n 0x00) x = 0x00 := by
  induction n with
  | zero => rfl
  | succ n ih => rw [List.replicate_succ', gfEval_append_singleton, ih, gfMul_zero_left]; rfl

theorem gfEval_map_gfMul (a : Byte) (vs : List Byte) (x : Byte) :
    gfEval Config.params (vs.map (gfMul Config.params a)) x = gfMul Config.params a (gfEval Config.params vs x) := by
  induction vs using List.reverseRecOn with
  | nil => exact (gfMul_zero_right _ a).symm
  | append_singleton vs v ih =>
    rw [List.map_append, List.map_singleton, gfEval_append_singleton, gfEval_append_singleton, ih, gfMul_assoc,
      gfMul_xor]

theorem gfEval_xor {vs ws : List Byte} (hlen : vs.length = ws.length) (x : Byte) :
    gfEval Config.params (List.zipWith (· ^^^ ·) vs ws) x =
      gfEval Config.params vs x ^^^ gfEval Config.params ws x := by
  induction vs using List.reverseRecOn generalizing ws with
  | nil => simp [List.length_eq_zero_iff.1 hlen.symm]; rfl
  | append_singleton vs v ih =>
    obtain ⟨ws, w, rfl⟩ : ∃ ws' w, ws = ws' ++ [w] := by
      rcases List.eq_nil_or_concat ws with rfl | ⟨ws', w, rfl⟩
      · simp at hlen
      · exact ⟨ws', w, List.concat_eq_append⟩
    have hlen' : vs.length = ws.length := by simpa using hlen
    rw [List.zipWith_append hlen', List.zipWith_cons_cons, List.zipWith_nil_left, gfEval_append_singleton,
      gfEval_append_singleton, gfEval_append_singleton, ih hlen', xor_gfMul]
    ac_rfl

/-! ### The window at the generator's roots (R126, R173, R180) -/

/-- The multiple of the generator that cancels entry i of the window, written over the whole window (R173). -/
def scaledGenerator (w : List Byte) (i : Nat) : List Byte :=
  List.replicate i 0x00 ++ ((genTable Config.params).map (gfMul Config.params (w.getD i 0x00)) ++
    List.replicate (w.length - (i + 16)) 0x00)

theorem length_scaledGenerator {w : List Byte} {i : Nat} (hi : i + 16 ≤ w.length) :
    (scaledGenerator w i).length = w.length := by
  simp [scaledGenerator]; omega

theorem getD_scaledGenerator (w : List Byte) (i c : Nat) :
    (scaledGenerator w i).getD c 0x00 =
      if i ≤ c ∧ c ≤ i + 15 then gfMul Config.params (w.getD i 0x00) (genAt Config.params (c - i)) else 0x00 := by
  unfold scaledGenerator
  by_cases hi : i ≤ c
  · rw [List.getD_append_right _ _ _ _ (by simpa using hi), List.length_replicate]
    by_cases hwin : c ≤ i + 15
    · have hlt : c - i < (genTable Config.params).length := by rw [length_genTable]; omega
      rw [if_pos ⟨hi, hwin⟩, List.getD_append _ _ _ _ (by simpa using hlt), genAt,
        List.getD_eq_getElem _ _ hlt, List.getD_eq_getElem _ _ (by simpa using hlt), List.getElem_map]
    · rw [if_neg (by omega), List.getD_append_right _ _ _ _ (by simp; omega), getD_zeros]
  · rw [if_neg (by omega), List.getD_append _ _ _ _ (by simpa using hi), getD_zeros]

theorem divStep_eq_xor {w : List Byte} {i : Nat} (hi : i + 16 ≤ w.length) :
    divStep Config.params w i = List.zipWith (· ^^^ ·) w (scaledGenerator w i) := by
  have hlen := length_scaledGenerator hi
  refine ext_getD (by simp [hlen]) fun c hc => ?_
  rw [getD_zipWith_xor hlen.symm, getD_scaledGenerator, getD_divStep fieldOk_default (by simpa using hc), gfMul_comm]
  split
  · rfl
  · exact BitVec.xor_zero.symm

/-- A multiple of the generator vanishes where the generator does. -/
theorem gfEval_scaledGenerator {x : Byte} (hx : gfEval Config.params (genTable Config.params) x = 0x00) (w : List Byte)
    (i : Nat) : gfEval Config.params (scaledGenerator w i) x = 0x00 := by
  have hscaled :
      gfEval Config.params ((genTable Config.params).map (gfMul Config.params (w.getD i 0x00))) x = 0x00 := by
    rw [gfEval_map_gfMul, hx, gfMul_zero_right]
  rw [scaledGenerator, gfEval_append_of_root (gfEval_replicate_zero _ _ _), gfEval_append_of_root hscaled,
    gfEval_replicate_zero]

/-- The division does not change the window's value at a root of the generator. -/
theorem gfEval_divWindow {x : Byte} (hx : gfEval Config.params (genTable Config.params) x = 0x00) {d : List Byte}
    {n : Nat} (hn : n ≤ d.length) :
    gfEval Config.params (divWindow Config.params d n) x = gfEval Config.params (d ++ List.replicate 15 0x00) x := by
  induction n with
  | zero => rw [divWindow_zero]
  | succ n ih =>
    have hlen : n + 16 ≤ (divWindow Config.params d n).length := by rw [length_divWindow]; omega
    rw [divWindow_succ, divStep_eq_xor hlen, gfEval_xor (length_scaledGenerator hlen).symm, gfEval_scaledGenerator hx,
      ih (by omega)]
    exact BitVec.xor_zero

/-- The window after the last iteration is zeros and the remainder (R175, R179). -/
theorem divWindow_eq_zeros_append {d : List Byte} (hd : d.length = 55) :
    divWindow Config.params d 55 = List.replicate 55 0x00 ++ rsEc Config.params d := by
  have hzeros : (divWindow Config.params d 55).take 55 = List.replicate 55 0x00 := by
    refine List.eq_replicate_iff.2 ⟨by simp [hd], fun v hv => ?_⟩
    obtain ⟨c, hc, rfl⟩ := List.getElem_of_mem hv
    rw [List.getElem_take, ← List.getD_eq_getElem _ 0x00]
    exact getD_divWindow_of_lt hd.ge (by simp at hc; omega)
  rw [← hzeros]
  exact (List.take_append_drop 55 _).symm

/-- The codewords are the dividend with the remainder XORed in (R173, R180). -/
theorem codewords_eq_xor {d : List Byte} (hd : d.length = 55) :
    d ++ rsEc Config.params d =
      List.zipWith (· ^^^ ·) (d ++ List.replicate 15 0x00) (divWindow Config.params d 55) := by
  rw [divWindow_eq_zeros_append hd, List.zipWith_append (by simpa using hd), xor_zeros hd, zeros_xor (length_rsEc _ hd)]

/-- Settles O33: dividend and remainder have the same value at a root of the generator, so their exclusive or is zero
there. -/
theorem codewordVanishesAtGeneratorRoots : Obligations.CodewordVanishesAtGeneratorRoots := by
  intro d i hd hi
  rw [codewords_eq_xor hd, gfEval_xor (by simp), gfEval_divWindow (gfEval_genTable i hi) hd.ge]
  exact BitVec.xor_self

end Sys2Proof.Machine
end

section
/-! SUPPORT. The interleaving of blocks of equal lengths, column by column (42_reed_solomon.md R176). -/

namespace Sys2Proof.Machine

/-- With blocks long enough column i has a codeword of every block. -/
theorem blockColumn_eq_map {blocks : List (List Byte)} {i : Nat} (h : ∀ blk ∈ blocks, i < blk.length) :
    blockColumn blocks i = blocks.map (·.getD i 0x00) := by
  rw [blockColumn, ← List.filterMap_eq_map]
  exact List.filterMap_congr fun blk hblk => by simp [h blk hblk]

/-- Place b of column i lies in the first k columns. -/
theorem column_index_lt {i k b nb : Nat} (hi : i < k) (hb : b < nb) : i * nb + b < k * nb :=
  calc i * nb + b < (i + 1) * nb := by rw [Nat.succ_mul]; omega
    _ ≤ k * nb := Nat.mul_le_mul_right _ hi

theorem blockColumns_succ (blocks : List (List Byte)) (k : Nat) :
    blockColumns blocks (k + 1) = blockColumns blocks k ++ blockColumn blocks k := by
  simp [blockColumns, List.range_succ]

section EqualLengths
variable {blocks : List (List Byte)} {n : Nat} (h : ∀ blk ∈ blocks, blk.length = n)
include h

theorem length_blockColumns {k : Nat} (hk : k ≤ n) : (blockColumns blocks k).length = k * blocks.length := by
  induction k with
  | zero => simp [blockColumns]
  | succ k ih =>
    rw [blockColumns_succ, List.length_append, ih (by omega),
      blockColumn_eq_map fun blk hblk => by rw [h blk hblk]; omega, List.length_map, Nat.succ_mul]

/-- Codeword i of block b stands in place b of column i. -/
theorem getElem?_blockColumns {k : Nat} (hk : k ≤ n) {i b : Nat} (hi : i < k) (hb : b < blocks.length) :
    (blockColumns blocks k)[i * blocks.length + b]? = blocks[b]?.bind (·[i]?) := by
  induction k with
  | zero => omega
  | succ k ih =>
    have hlen := length_blockColumns h (k := k) (by omega)
    rw [blockColumns_succ]
    by_cases hik : i < k
    · rw [List.getElem?_append_left (hlen ▸ column_index_lt hik hb), ih (by omega) hik]
    · obtain rfl : i = k := by omega
      have hcol : i < blocks[b].length := by rw [h _ (List.getElem_mem hb)]; omega
      rw [List.getElem?_append_right (by omega), hlen, Nat.add_sub_cancel_left,
        blockColumn_eq_map fun blk hblk => by rw [h blk hblk]; omega]
      simp [hb, hcol]

end EqualLengths

/-- The length of the longest of some blocks of one length, searched from a smaller one on. -/
theorem foldl_max_length {blocks : List (List Byte)} {n k : Nat} (h : ∀ blk ∈ blocks, blk.length = n)
    (hne : blocks ≠ []) (hk : k ≤ n) : blocks.foldl (fun m blk => max m blk.length) k = n := by
  induction blocks generalizing k with
  | nil => exact absurd rfl hne
  | cons blk rest ih =>
    obtain ⟨hblk, hrest⟩ := List.forall_mem_cons.1 h
    rw [List.foldl_cons, hblk, max_eq_right hk]
    by_cases hnil : rest = []
    · rw [hnil, List.foldl_nil]
    · exact ih hrest hnil le_rfl

theorem interleave_eq {blocks : List (List Byte × List Byte)} {n m : Nat}
    (hd : ∀ d ∈ blocks.map Prod.fst, d.length = n) (he : ∀ e ∈ blocks.map Prod.snd, e.length = m)
    (hne : blocks ≠ []) :
    interleave blocks = blockColumns (blocks.map Prod.fst) n ++ blockColumns (blocks.map Prod.snd) m := by
  unfold interleave
  dsimp only
  rw [foldl_max_length hd (by simpa using hne) n.zero_le,
    foldl_max_length he (by simpa using hne) m.zero_le]

/-- The columns of one block are the block. -/
theorem blockColumns_singleton (blk : List Byte) : blockColumns [blk] blk.length = blk := by
  have hone : ∀ blk' ∈ [blk], blk'.length = blk.length := by simp
  have hlen : (blockColumns [blk] blk.length).length = blk.length := by
    rw [length_blockColumns hone le_rfl, List.length_singleton, Nat.mul_one]
  refine List.ext_getElem? fun i => ?_
  by_cases hi : i < blk.length
  · simpa using getElem?_blockColumns hone le_rfl hi Nat.one_pos
  · rw [List.getElem?_eq_none (by omega), List.getElem?_eq_none (by omega)]

/-- Settles O35: the data columns come first, and the EC columns begin after the n * NB data codewords. -/
theorem interleavingIsColumnMajor : Obligations.InterleavingIsColumnMajor := by
  refine ⟨fun d e => ?_, fun blocks n m h b hb => ?_⟩
  · rw [interleave_eq (n := d.length) (m := e.length) (by simp) (by simp) (by simp)]
    exact congrArg₂ _ (blockColumns_singleton d) (blockColumns_singleton e)
  have hd : ∀ d ∈ blocks.map Prod.fst, d.length = n := List.forall_mem_map.2 fun blk hblk => (h blk hblk).1
  have he : ∀ e ∈ blocks.map Prod.snd, e.length = m := List.forall_mem_map.2 fun blk hblk => (h blk hblk).2
  have hlen := length_blockColumns hd le_rfl
  rw [List.length_map] at hlen
  rw [interleave_eq hd he (List.ne_nil_of_length_pos (by omega))]
  refine ⟨fun i hi => ?_, fun i hi => ?_⟩
  · have hcol := getElem?_blockColumns hd le_rfl hi (b := b) (by simpa using hb)
    rw [List.getElem?_append_left (hlen ▸ column_index_lt hi hb)]
    simpa [hb] using hcol
  · have hcol := getElem?_blockColumns he le_rfl hi (b := b) (by simpa using hb)
    rw [List.getElem?_append_right (by omega), hlen, Nat.add_assoc, Nat.add_sub_cancel_left]
    simpa [hb] using hcol

end Sys2Proof.Machine
end

section
/-! SUPPORT. The zig-zag sequencer as the host sees it (43_zigzag_placement.md R201 to R210): ZZINIT and ZZNEXT, one
move of the cursor, and the traversal as an enumeration without repetition of the cells outside column 6. -/

namespace Sys2Proof.Machine

/-! ### The two commands (R202, R209) -/

/-- Settles O37: the cursor ZZINIT leaves is the fresh one, and ZX, ZY and ZFLAGS show it. -/
theorem zzinitMakesFreshCursor : Obligations.ZzinitMakesFreshCursor := by
  intro s ho
  have hflags : s.block.initTraversal.zflags = 0x07 := by
    simp only [Block.zflags, Block.initTraversal_cov, Block.initTraversal_cursor]; decide
  have hcoord : coordByte 28 = 0x1C := by decide
  exact ⟨s.block.initTraversal, exec_ready .zzinit ho, rfl, hcoord, hcoord, hflags⟩

/-- ZZNEXT at a live cursor. -/
theorem nextCoord_of_live {b : Block} (hz : b.cursor.zv = true) :
    b.nextCoord =
      { b with cx := b.cursor.zx, cy := b.cursor.zy, cov := true, cursor := b.cursor.advance, err := 0x00 } := by
  rcases nextCoord_cases b with ⟨-, h⟩ | ⟨hend, -⟩
  · exact h
  · rw [hz] at hend; cases hend

/-- ZZNEXT at an ended cursor. -/
theorem nextCoord_of_ended {b : Block} (hz : b.cursor.zv = false) :
    b.nextCoord = { b with cov := false, err := 0x00 } := by
  rcases nextCoord_cases b with ⟨hlive, -⟩ | ⟨-, h⟩
  · rw [hz] at hlive; cases hlive
  · exact h

theorem exec_zznext {s : State} (ho : s.block.opst = .ready) :
    exec .zznext s = .next { s with block := s.block.nextCoord } := exec_ready .zznext ho

/-- Settles O40, by the two cases of ZZNEXT. -/
theorem zznextYieldsAndAdvances : Obligations.ZznextYieldsAndAdvances := by
  intro s ho
  exact ⟨fun hz => by rw [exec_zznext ho, nextCoord_of_live hz],
    fun hz => by rw [exec_zznext ho, nextCoord_of_ended hz]⟩

/-- Settles O43: what ZZNEXT stores in the cursor, COV, CX and CY is read from the cursor alone. -/
theorem traversalIgnoresGridAndCodewords : Obligations.TraversalIgnoresGridAndCodewords := by
  intro s s' ho ho' hc
  refine ⟨_, _, exec_zznext ho, exec_zznext ho', ?_⟩
  cases hz : s.block.cursor.zv with
  | true => simp [nextCoord_of_live hz, nextCoord_of_live (hc ▸ hz), hc]
  | false => simp [nextCoord_of_ended hz, nextCoord_of_ended (hc ▸ hz), hc]

/-! ### One move of the cursor (R203 to R206) -/

/-- Settles O38, by the branches of the step. -/
theorem columnLeftStep : Obligations.ColumnLeftStep := by
  intro c
  refine ⟨fun h0 => ?_, fun h7 => ?_, fun h0 h7 => ?_⟩
  · rw [Cursor.colLeft, if_pos h0]
  · rw [Cursor.colLeft, if_neg (by rw [h7]; decide), if_pos h7]
  · rw [Cursor.colLeft, if_neg h0, if_neg h7]

/-- The vertical move is due on the edge: the top row upward, the bottom row downward (R206). -/
theorem Cursor.atEdge_iff (c : Cursor) :
    c.atEdge = true ↔ (c.up = true ∧ c.zy = 0) ∨ (c.up = false ∧ c.zy = 28) := by
  simp [Cursor.atEdge]

theorem Cursor.advance_horizontal {c : Cursor} (h : c.hnext = true) :
    c.advance = { c.colLeft with hnext := false } := by
  rw [Cursor.advance, if_pos h]

theorem Cursor.advance_reversal {c : Cursor} (h : c.hnext = false) (hedge : c.atEdge = true) :
    c.advance = { ({ c with up := !c.up } : Cursor).colLeft with hnext := true } := by
  rw [Cursor.advance, if_neg (by simp [h]), if_pos hedge]

theorem Cursor.advance_vertical {c : Cursor} (h : c.hnext = false) (hedge : ¬c.atEdge = true) :
    c.advance = { c with zx := c.zx + 1, zy := if c.up then c.zy - 1 else c.zy + 1, hnext := true } := by
  rw [Cursor.advance, if_neg (by simp [h]), if_neg hedge]

/-- Settles O39, by the three moves. -/
theorem advanceMovesTheCursor : Obligations.AdvanceMovesTheCursor := by
  intro c
  refine ⟨Cursor.advance_horizontal, fun h hup hy => ?_, fun h hup hy => ?_, fun h hup hy => ?_, fun h hup hy => ?_⟩
  · rw [Cursor.advance_reversal h (c.atEdge_iff.2 (.inl ⟨hup, hy⟩)), hup]; rfl
  · rw [Cursor.advance_reversal h (c.atEdge_iff.2 (.inr ⟨hup, hy⟩)), hup]; rfl
  · rw [Cursor.advance_vertical h (by simpa [c.atEdge_iff, hup] using hy), hup]; rfl
  · rw [Cursor.advance_vertical h (by simpa [c.atEdge_iff, hup] using hy), hup]; rfl

/-- Settles O41: the yield of the n-th cursor is the n-th coordinate. -/
theorem zznextFollowsTheClosedForm : Obligations.ZznextFollowsTheClosedForm := by
  intro s n ho hn hc
  have hz : s.block.cursor.zv = true := by rw [hc, cursorAt_zv]; simpa using hn
  obtain ⟨hx, hy⟩ := Prod.ext_iff.1 (cursorAt_coord n hn)
  refine ⟨_, exec_zznext ho, ?_⟩
  rw [nextCoord_of_live hz, hc, advance_cursorAt n hn, cursorAt_zv]
  exact ⟨rfl, hx, hy, rfl, decide_eq_true_iff⟩

/-! ### The closed form enumerates the cells outside column 6 (R207, R210) -/

/-- The place of the cell (x, y) in the traversal: its band, then its row in the band's direction, then its side. -/
def coordIndex (c : Nat × Nat) : Nat :=
  let fromRight := if 6 < c.1 then 28 - c.1 else 27 - c.1
  let band := fromRight / 2
  58 * band + 2 * (if band % 2 = 0 then 28 - c.2 else c.2) + fromRight % 2

theorem coordIndex_lt {x y : Nat} (hx : x < 29) (hy : y < 29) : coordIndex (x, y) < 812 := by
  simp only [coordIndex]
  split <;> split <;> omega

/-- No coordinate is yielded twice. -/
theorem coordIndex_coordAt {n : Nat} (hn : n < 812) : coordIndex (coordAt n) = n := by
  simp only [coordIndex, coordAt, bandRight]
  split_ifs <;> omega

/-- Every cell outside column 6 is yielded. -/
theorem coordAt_coordIndex {x y : Nat} (hx : x < 29) (hy : y < 29) (h6 : x ≠ 6) :
    coordAt (coordIndex (x, y)) = (x, y) := by
  simp only [coordIndex, coordAt, bandRight, Prod.mk.injEq]
  constructor <;> split_ifs <;> omega

theorem coordAt_inj {m n : Nat} (hm : m < 812) (hn : n < 812) (h : coordAt m = coordAt n) : m = n := by
  rw [← coordIndex_coordAt hm, h, coordIndex_coordAt hn]

theorem nodup_coords : ((List.range 812).map coordAt).Nodup :=
  List.Nodup.map_on (fun _ hm _ hn => coordAt_inj (List.mem_range.1 hm) (List.mem_range.1 hn)) List.nodup_range

theorem mem_coords {x y : Nat} : (x, y) ∈ (List.range 812).map coordAt ↔ x < 29 ∧ y < 29 ∧ x ≠ 6 := by
  rw [List.mem_map]
  constructor
  · rintro ⟨n, hn, hc⟩
    have hb := coordAt_bounds n (List.mem_range.1 hn)
    rwa [hc] at hb
  · rintro ⟨hx, hy, h6⟩
    exact ⟨coordIndex (x, y), List.mem_range.2 (coordIndex_lt hx hy), coordAt_coordIndex hx hy h6⟩

/-- The state machine's sequence is the closed form. -/
theorem zzSeq_eq : zzSeq = (List.range 812).map coordAt := by
  rw [zzSeq, ← cursorAt_zero, yields_cursorAt 813 0 rfl]
  simp

/-- Settles O42: the closed form has the inverse `coordIndex` on the cells outside column 6. -/
theorem traversalCoversAllButColumnSix : Obligations.TraversalCoversAllButColumnSix := by
  rw [Obligations.TraversalCoversAllButColumnSix, zzSeq_eq]
  exact ⟨rfl, by simp, nodup_coords, fun _ _ => mem_coords⟩

end Sys2Proof.Machine
end

section
/-! SUPPORT. The placement engine (43_zigzag_placement.md R213 to R218): what PLACE may write, and then what it does
write, by the state `Block.Reaches` in which its loop comes to the n-th coordinate. -/

namespace Sys2Proof.Machine

/-! ### PLACE writes Unknown cells only (R216) -/

/-- From `b` to `b'` the grid changed in Unknown cells outside column 6 only, which are Data now. -/
def Block.WritesUnknownOnly (b b' : Block) : Prop :=
  ∀ a, b'.grid.get a ≠ b.grid.get a →
    ∃ x y, x < 29 ∧ y < 29 ∧ x ≠ 6 ∧ a = cellIndex x y ∧ b.cell x y = .unknown ∧ ∃ dark, b'.cell x y = .data dark

theorem Block.WritesUnknownOnly.of_grid_eq {b b' : Block} (h : b'.grid = b.grid) : b.WritesUnknownOnly b' :=
  fun a hne => absurd (by rw [h]) hne

theorem Block.WritesUnknownOnly.congr {b b' c : Block} (h : b.WritesUnknownOnly b') (hc : c.grid = b'.grid) :
    b.WritesUnknownOnly c := by
  simpa only [Block.WritesUnknownOnly, Block.cell, hc] using h

theorem Block.cell_eq_of_get_eq {b b' : Block} {x y : Nat}
    (h : b'.grid.get (cellIndex x y) = b.grid.get (cellIndex x y)) : b'.cell x y = b.cell x y := by
  rw [Block.cell, h, Block.cell]

/-- A cell written by the first change is Data, so the second leaves it. -/
theorem Block.WritesUnknownOnly.trans {b b' b'' : Block} (h : b.WritesUnknownOnly b') (h' : b'.WritesUnknownOnly b'') :
    b.WritesUnknownOnly b'' := by
  intro a hne
  by_cases hlast : b''.grid.get a = b'.grid.get a
  · obtain ⟨x, y, hx, hy, h6, rfl, hunknown, dark, hdata⟩ := h a (hlast ▸ hne)
    exact ⟨x, y, hx, hy, h6, rfl, hunknown, dark, by rw [Block.cell_eq_of_get_eq hlast, hdata]⟩
  · obtain ⟨x, y, hx, hy, h6, rfl, hunknown, hdata⟩ := h' a hlast
    by_cases hfirst : b'.grid.get (cellIndex x y) = b.grid.get (cellIndex x y)
    · exact ⟨x, y, hx, hy, h6, rfl, by rw [← Block.cell_eq_of_get_eq hfirst, hunknown], hdata⟩
    · obtain ⟨x', y', hx', -, -, heq, -, dark, hdata'⟩ := h _ hfirst
      obtain ⟨rfl, rfl⟩ := cellIndex_inj hx hx' heq
      rw [hunknown] at hdata'
      cases hdata'

/-- Writing Data into an Unknown cell outside column 6. -/
theorem Block.WritesUnknownOnly.store {b b' : Block} (hwf : b.grid.wf = true) {x y : Nat} (hx : x < 29) (hy : y < 29)
    (h6 : x ≠ 6) (hunknown : b.cell x y = .unknown) {dark : Bool}
    (hgrid : b'.grid = b.grid.set (cellIndex x y) (Module.data dark).code) : b.WritesUnknownOnly b' := by
  intro a hne
  rw [hgrid, Memory.get_set hwf] at hne
  by_cases ha : cellIndex x y = a
  · refine ⟨x, y, hx, hy, h6, ha.symm, hunknown, dark, ?_⟩
    rw [Block.cell, hgrid, Memory.get_set hwf, if_pos rfl, Module.ofCode_code]
  · exact absurd (if_neg ha) hne

/-- The coordinate of the n-th cursor is a cell outside column 6. -/
theorem cursorAt_cell {n : Nat} (hn : n < 812) :
    (cursorAt n).zx.toNat < 29 ∧ (cursorAt n).zy.toNat < 29 ∧ (cursorAt n).zx.toNat ≠ 6 := by
  have hb := coordAt_bounds n hn
  rwa [← cursorAt_coord n hn] at hb

/-- One pass writes at most the Unknown cell it visits, keeps the grid canonical and moves on to the next cursor. -/
theorem placeVisit_writesUnknownOnly (p : Config.Params) {b : Block} (hwf : b.grid.wf = true) {n : Nat} (hn : n < 812)
    (hc : b.cursor = cursorAt n) :
    b.WritesUnknownOnly (placeVisit p b).1 ∧ (placeVisit p b).1.grid.wf = true ∧
      (placeVisit p b).1.cursor = cursorAt (n + 1) := by
  have hnext : b.cursor.advance = cursorAt (n + 1) := by rw [hc, advance_cursorAt n hn]
  have hskip : b.WritesUnknownOnly b.yieldCoord := .of_grid_eq rfl
  rcases placeVisit_cases p b with ⟨-, h⟩ | ⟨-, -, h⟩ | ⟨-, -, h⟩ | ⟨-, hunknown, h⟩
  all_goals rw [h]
  · exact ⟨hskip, hwf, hnext⟩
  · exact ⟨hskip, hwf, hnext⟩
  · exact ⟨hskip, hwf, hnext⟩
  · obtain ⟨hx, hy, h6⟩ := cursorAt_cell hn
    rw [← hc] at hx hy h6
    exact ⟨.store hwf hx hy h6 hunknown rfl, Memory.set_wf _ _ hwf, hnext⟩

theorem placeLoop_writesUnknownOnly (p : Config.Params) (passes : Nat) {b : Block} (hwf : b.grid.wf = true) {n : Nat}
    (hc : b.cursor = cursorAt n) : b.WritesUnknownOnly (placeLoop p passes b).1 := by
  induction passes generalizing b n with
  | zero => exact .of_grid_eq rfl
  | succ k ih =>
    rw [placeLoop]
    by_cases hz : b.cursor.zv = true
    · have hn : n < 812 := by rw [hc, cursorAt_zv] at hz; simpa using hz
      obtain ⟨hvisit, hwf', hc'⟩ := placeVisit_writesUnknownOnly p hwf hn hc
      rw [if_pos hz]
      generalize placeVisit p b = r at hvisit hwf' hc' ⊢
      obtain ⟨b', _ | f⟩ := r
      · exact hvisit.trans (ih hwf' hc')
      · exact hvisit
    · rw [if_neg hz]
      exact .of_grid_eq rfl

theorem placeStream_writesUnknownOnly (p : Config.Params) {b : Block} (hwf : b.grid.wf = true) :
    b.WritesUnknownOnly (b.placeStream p) := by
  have hloop : b.WritesUnknownOnly (placeLoop p Config.numCoords b.placeStart).1 :=
    placeLoop_writesUnknownOnly p _ (b := b.placeStart) hwf cursorAt_zero.symm
  rcases placeStream_cases p b with ⟨-, h⟩ | ⟨b', f, -, hl, h⟩ | ⟨b', -, hl, -, h⟩ | ⟨b', -, hl, -, h⟩
  all_goals rw [h]
  · exact .of_grid_eq rfl
  all_goals
    rw [hl] at hloop
    exact hloop.congr rfl

/-- Settles O48: in READY by the frame of PLACE and pass by pass, in FAULTED because nothing changes. -/
theorem placeWritesUnknownCellsOnly : Obligations.PlaceWritesUnknownCellsOnly := by
  intro s t hwf ht
  rw [exec_eq_command] at ht
  rcases command_cases ht with ⟨-, rfl⟩ | ⟨-, rfl⟩
  · exact ⟨congrArg (fun b => { s with block := b }) (placeStream_keeps _ _), placeStream_writesUnknownOnly _ hwf⟩
  · exact ⟨rfl, fun _ hne => absurd rfl hne⟩

/-! ### The open cells before the n-th coordinate (R212) -/

/-- The open cells among the first `n` coordinates, in the order of the traversal. -/
def Block.openBefore (b : Block) (n : Nat) : List (Nat × Nat) :=
  ((List.range n).map coordAt).filter fun c => !(b.cell c.1 c.2).isFun

/-- How many open cells the traversal meets before the n-th coordinate. -/
def Block.openCount (b : Block) (n : Nat) : Nat := (b.openBefore n).length

theorem Block.openCount_end (b : Block) : b.openCount 812 = b.openCells.length := rfl

theorem Block.openBefore_succ (b : Block) (n : Nat) :
    b.openBefore (n + 1) =
      b.openBefore n ++ if (b.cell (coordAt n).1 (coordAt n).2).isFun then [] else [coordAt n] := by
  rw [Block.openBefore, List.range_succ, List.map_append, List.filter_append, ← Block.openBefore]
  cases h : (b.cell (coordAt n).1 (coordAt n).2).isFun <;> simp [h]

theorem Block.openCount_succ_of_fun {b : Block} {n : Nat} (h : (b.cell (coordAt n).1 (coordAt n).2).isFun = true) :
    b.openCount (n + 1) = b.openCount n := by
  simp [Block.openCount, b.openBefore_succ, h]

theorem Block.openCount_succ_of_open {b : Block} {n : Nat} (h : (b.cell (coordAt n).1 (coordAt n).2).isFun = false) :
    b.openCount (n + 1) = b.openCount n + 1 := by
  simp [Block.openCount, b.openBefore_succ, h]

theorem Block.openCount_le_succ (b : Block) (n : Nat) : b.openCount n ≤ b.openCount (n + 1) := by
  rw [Block.openCount, Block.openCount, b.openBefore_succ, List.length_append]
  exact Nat.le_add_right ..

theorem Block.openBefore_prefix (b : Block) {n : Nat} (hn : n ≤ 812) : b.openBefore n <+: b.openCells := by
  have hrange : List.range n <+: List.range 812 := by
    rw [← Nat.add_sub_cancel' hn, List.range_add]
    exact List.prefix_append ..
  exact (hrange.map coordAt).filter _

theorem Block.nodup_openCells (b : Block) : b.openCells.Nodup := nodup_coords.filter _

theorem Block.mem_openCells {b : Block} {c : Nat × Nat} (h : c ∈ b.openCells) :
    c.1 < 29 ∧ (b.cell c.1 c.2).isFun = false := by
  obtain ⟨hmem, hopen⟩ := List.mem_filter.1 h
  exact ⟨(mem_coords.1 hmem).1, by simpa using hopen⟩

/-- An open coordinate stands in the open cells after those that the traversal met before it. -/
theorem Block.getElem?_openCells_openCount {b : Block} {n : Nat} (hn : n < 812)
    (h : (b.cell (coordAt n).1 (coordAt n).2).isFun = false) : b.openCells[b.openCount n]? = some (coordAt n) := by
  obtain ⟨rest, hrest⟩ := b.openBefore_prefix (n := n + 1) hn
  rw [← hrest, b.openBefore_succ, h]
  simp [Block.openCount]

/-- The place of the n-th coordinate among the open cells. -/
theorem Block.eq_openCount {b : Block} {n j : Nat} (hn : n < 812) (h : b.openCells[j]? = some (coordAt n)) :
    j = b.openCount n := by
  have hopen := (Block.mem_openCells (List.mem_of_getElem? h)).2
  obtain ⟨hj, -⟩ := List.getElem?_eq_some_iff.1 h
  exact (List.getElem?_inj hj b.nodup_openCells).1 (h.trans (Block.getElem?_openCells_openCount hn hopen).symm)

/-- No open cell met before the n-th coordinate lies at its index. -/
theorem Block.cellIndex_ne_of_lt_openCount {b : Block} {n k : Nat} {c : Nat × Nat} (hn : n < 812)
    (hk : k < b.openCount n) (h : b.openCells[k]? = some c) :
    cellIndex (coordAt n).1 (coordAt n).2 ≠ cellIndex c.1 c.2 := by
  intro heq
  have hc := (Block.mem_openCells (List.mem_of_getElem? h)).1
  have hcoord : coordAt n = c := Prod.ext_iff.2 (cellIndex_inj (coordAt_bounds n hn).1 hc heq)
  exact absurd (Block.eq_openCount hn (hcoord ▸ h)) (Nat.ne_of_lt hk)

theorem Block.UnknownBelow.mono {b : Block} {m m' : Nat} (h : b.UnknownBelow m') (hm : m ≤ m') : b.UnknownBelow m :=
  fun k c hk => h k c (Nat.lt_of_lt_of_le hk hm)

/-! ### The filled grid, cell by cell (R213, R214) -/

theorem Block.filled_zero (b : Block) : b.Filled 0 b.grid :=
  ⟨fun _ _ hk => absurd hk (Nat.not_lt_zero _), fun _ _ => rfl⟩

/-- Before its visit the n-th coordinate holds what the block holds there. -/
theorem Block.Filled.cell_coordAt {b c : Block} {n : Nat} (h : b.Filled (b.openCount n) c.grid) (hn : n < 812) :
    c.cell (coordAt n).1 (coordAt n).2 = b.cell (coordAt n).1 (coordAt n).2 :=
  Block.cell_eq_of_get_eq (h.2 _ fun _ _ hk hc => Block.cellIndex_ne_of_lt_openCount hn hk hc)

/-- Writing the next stream bit into an open n-th coordinate. -/
theorem Block.Filled.store {b : Block} {n : Nat} {g : Memory} (h : b.Filled (b.openCount n) g) (hwf : g.wf = true)
    (hn : n < 812) (hopen : (b.cell (coordAt n).1 (coordAt n).2).isFun = false) :
    b.Filled (b.openCount n + 1)
      (g.set (cellIndex (coordAt n).1 (coordAt n).2) (Module.data (b.streamBit (b.openCount n))).code) := by
  have hlast := Block.getElem?_openCells_openCount hn hopen
  obtain ⟨hwritten, hkept⟩ := h
  refine ⟨fun k c hk hc => ?_, fun a ha => ?_⟩
  · rw [Memory.get_set hwf]
    rcases Nat.lt_succ_iff_lt_or_eq.1 hk with hk | rfl
    · rw [if_neg (Block.cellIndex_ne_of_lt_openCount hn hk hc)]
      exact hwritten k c hk hc
    · obtain rfl : coordAt n = c := Option.some.inj (hlast.symm.trans hc)
      rw [if_pos rfl, Module.ofCode_code]
  · rw [Memory.get_set hwf, if_neg (ha _ _ (Nat.lt_succ_self _) hlast).symm]
    exact hkept a fun k c hk => ha k c (Nat.lt_succ_of_lt hk)

/-! ### The loop up to the n-th coordinate (R213) -/

/-- `c` is what PLACE's loop, started on `b`, leaves when it comes to the n-th coordinate without a fault. -/
structure Block.Reaches (b : Block) (n : Nat) (c : Block) : Prop where
  cursor : c.cursor = cursorAt n
  spos : c.spos = BitVec.ofNat 10 (b.openCount n)
  cw : c.cw = b.cw
  wf : c.grid.wf = true
  filled : b.Filled (b.openCount n) c.grid
  /-- what the last yield stored -/
  yielded : ∀ k, n = k + 1 → c.cx = (cursorAt k).zx ∧ c.cy = (cursorAt k).zy ∧ c.cov = true

theorem Block.reaches_zero {b : Block} (hwf : b.grid.wf = true) : b.Reaches 0 b.placeStart where
  cursor := cursorAt_zero.symm
  spos := rfl
  cw := rfl
  wf := hwf
  filled := b.filled_zero
  yielded := nofun

namespace Block.Reaches

variable {b c : Block} {n : Nat}

theorem cursor_live (h : b.Reaches n c) (hn : n < 812) : c.cursor.zv = true := by
  rw [h.cursor, cursorAt_zv]; simpa using hn

theorem cursor_coord (h : b.Reaches n c) (hn : n < 812) :
    c.cursor.zx.toNat = (coordAt n).1 ∧ c.cursor.zy.toNat = (coordAt n).2 := by
  rw [h.cursor]; exact Prod.ext_iff.1 (cursorAt_coord n hn)

theorem cell_cursor (h : b.Reaches n c) (hn : n < 812) :
    c.cell c.cursor.zx.toNat c.cursor.zy.toNat = b.cell (coordAt n).1 (coordAt n).2 := by
  obtain ⟨hx, hy⟩ := h.cursor_coord hn
  rw [hx, hy, h.filled.cell_coordAt hn]

theorem spos_toNat (h : b.Reaches n c) (hle : b.openCount n ≤ 567) : c.spos.toNat = b.openCount n := by
  rw [h.spos, BitVec.toNat_ofNat]
  exact Nat.mod_eq_of_lt (by omega)

theorem streamBit (h : b.Reaches n c) (i : Nat) : c.streamBit i = b.streamBit i := by
  rw [Block.streamBit, h.cw, Block.streamBit]

theorem yieldCoord_yielded (h : b.Reaches n c) (k : Nat) (hk : n + 1 = k + 1) :
    c.yieldCoord.cx = (cursorAt k).zx ∧ c.yieldCoord.cy = (cursorAt k).zy ∧ c.yieldCoord.cov = true := by
  obtain rfl : n = k := by omega
  rw [Block.yieldCoord_cx, Block.yieldCoord_cy, h.cursor]
  exact ⟨rfl, rfl, rfl⟩

theorem yieldCoord_cursor (h : b.Reaches n c) (hn : n < 812) : c.yieldCoord.cursor = cursorAt (n + 1) := by
  rw [Block.yieldCoord_cursor, h.cursor, advance_cursorAt n hn]

/-- The pass at a function cell, or at an Unknown cell with bits left, raises no fault and goes on. -/
theorem placeVisit_continues (h : b.Reaches n c) (hn : n < 812) (hle : b.openCount (n + 1) ≤ 567)
    (hunknown : (b.cell (coordAt n).1 (coordAt n).2).isFun = false → b.cell (coordAt n).1 (coordAt n).2 = .unknown) :
    ∃ c', placeVisit Config.params c = (c', none) ∧ b.Reaches (n + 1) c' := by
  have hspos := h.spos_toNat ((b.openCount_le_succ n).trans hle)
  have hcases := placeVisit_cases Config.params c
  dsimp only at hcases
  rw [h.cell_cursor hn, hspos, slen_default] at hcases
  rcases hcases with ⟨hfun, heq⟩ | ⟨hopen, hfull, -⟩ | ⟨-, ⟨d, hdata⟩, -⟩ | ⟨-, hcell, heq⟩
  · have hcount := Block.openCount_succ_of_fun hfun
    exact ⟨_, heq, h.yieldCoord_cursor hn, hcount ▸ h.spos, h.cw, h.wf, hcount ▸ h.filled, h.yieldCoord_yielded⟩
  · rw [Block.openCount_succ_of_open hopen] at hle
    omega
  · rw [hdata] at hunknown
    cases hunknown rfl
  · have hopen : (b.cell (coordAt n).1 (coordAt n).2).isFun = false := by rw [hcell]; rfl
    have hcount := Block.openCount_succ_of_open hopen
    obtain ⟨hx, hy⟩ := h.cursor_coord hn
    refine ⟨_, heq, h.yieldCoord_cursor hn, ?_, h.cw, Memory.set_wf _ _ h.wf, ?_, h.yieldCoord_yielded⟩
    · rw [hcount, h.spos]
      exact (BitVec.ofNat_add ..).symm
    · rw [hcount, hx, hy, h.streamBit]
      exact h.filled.store h.wf hn hopen

/-- The pass at an open cell when the stream is used up, or at a Data cell with bits left, raises its fault (R215,
R216). -/
theorem placeVisit_faults (h : b.Reaches n c) (hn : n < 812) {f : FaultName}
    (hopen : (b.cell (coordAt n).1 (coordAt n).2).isFun = false)
    (hf : (b.openCount n = 567 ∧ f = .count) ∨
      (b.openCount n < 567 ∧ (∃ d, b.cell (coordAt n).1 (coordAt n).2 = .data d) ∧ f = .overwrite)) :
    placeVisit Config.params c = (c.yieldCoord, some f) := by
  have hspos := h.spos_toNat (by omega)
  have hcases := placeVisit_cases Config.params c
  dsimp only at hcases
  rw [h.cell_cursor hn, hspos, slen_default] at hcases
  rcases hcases with ⟨hfun, -⟩ | ⟨-, hfull, heq⟩ | ⟨hleft, -, heq⟩ | ⟨hleft, hcell, -⟩
  · rw [hopen] at hfun; cases hfun
  · obtain ⟨-, rfl⟩ | ⟨hleft, -⟩ := hf
    · exact heq
    · omega
  · obtain ⟨hfull, -⟩ | ⟨-, -, rfl⟩ := hf
    · omega
    · exact heq
  · obtain ⟨hfull, -⟩ | ⟨-, ⟨d, hdata⟩, -⟩ := hf
    · omega
    · rw [hcell] at hdata; cases hdata

end Block.Reaches

/-- While the open cells are Unknown and their bits are left, the loop reaches the n-th coordinate. -/
theorem placeLoop_reaches {b : Block} (hwf : b.grid.wf = true) {n : Nat} (hn : n ≤ 812) (hle : b.openCount n ≤ 567)
    (hunknown : b.UnknownBelow (b.openCount n)) :
    ∃ c, b.Reaches n c ∧
      placeLoop Config.params 812 b.placeStart = placeLoop Config.params (812 - n) c := by
  induction n with
  | zero => exact ⟨_, Block.reaches_zero hwf, rfl⟩
  | succ n ih =>
    have hmono := b.openCount_le_succ n
    obtain ⟨c, hc, hloop⟩ := ih (by omega) (by omega) (hunknown.mono hmono)
    obtain ⟨c', hvisit, hc'⟩ := hc.placeVisit_continues hn hle fun hopen =>
      hunknown _ _ (by rw [Block.openCount_succ_of_open hopen]; omega) (Block.getElem?_openCells_openCount hn hopen)
    refine ⟨c', hc', hloop.trans ?_⟩
    rw [show 812 - n = 812 - (n + 1) + 1 by omega, placeLoop, if_pos (hc.cursor_live hn), hvisit]

/-! ### How the loop ends (R215 to R217) -/

/-- With all open cells Unknown and bits for them all, the loop ends the traversal with every open cell written. -/
theorem placeLoop_completes {b : Block} (hwf : b.grid.wf = true) (hle : b.openCells.length ≤ 567)
    (hunknown : b.UnknownBelow b.openCells.length) :
    ∃ g, placeLoop Config.params 812 b.placeStart =
        ({ b with
            grid := g, cursor := { zx := 0, zy := 28, up := true, hnext := true, zv := false }, cx := 0, cy := 28
            cov := true, spos := BitVec.ofNat 10 b.openCells.length }, none) ∧
      b.Filled b.openCells.length g := by
  obtain ⟨c, hc, hloop⟩ := placeLoop_reaches hwf le_rfl hle hunknown
  obtain ⟨hzx, hzy⟩ : (cursorAt 811).zx = 0 ∧ (cursorAt 811).zy = 28 := by decide
  obtain ⟨hcx, hcy, hcov⟩ := hc.yielded 811 rfl
  have hkeeps := placeLoop_keeps Config.params 812 b.placeStart
  rw [hloop] at hkeeps
  refine ⟨c.grid, hloop.trans (congrArg (·, none) (hkeeps.trans ?_)), hc.filled⟩
  simp only [Nat.sub_self, placeLoop, hc.cursor, cursorAt_end, hc.spos, hcx, hzx, hcy, hzy, hcov,
    b.openCount_end]
  rfl

/-- At the open cell `j` PLACE's loop stops with F_COUNT when the stream is used up and with F_OVERWRITE when bits are
left and the cell is Data: the cells before it are written and the cursor is past it. -/
theorem placeLoop_faults {b : Block} (hwf : b.grid.wf = true) {n j : Nat} (hn : n < 812)
    (hj : b.openCells[j]? = some (coordAt n)) (hunknown : b.UnknownBelow j) {f : FaultName}
    (hf : (j = 567 ∧ f = .count) ∨
      (j < 567 ∧ (∃ d, b.cell (coordAt n).1 (coordAt n).2 = .data d) ∧ f = .overwrite)) :
    ∃ g, placeLoop Config.params 812 b.placeStart =
        ({ b with
            grid := g, cursor := cursorAt (n + 1), cx := BitVec.ofNat 5 (coordAt n).1
            cy := BitVec.ofNat 5 (coordAt n).2, cov := true, spos := BitVec.ofNat 10 j }, some f) ∧
      b.Filled j g := by
  obtain rfl := Block.eq_openCount hn hj
  obtain ⟨c, hc, hloop⟩ := placeLoop_reaches hwf (Nat.le_of_lt hn) (by omega) hunknown
  have hopen := (Block.mem_openCells (List.mem_of_getElem? hj)).2
  obtain ⟨hx, hy⟩ := hc.cursor_coord hn
  have hcursor := hc.yieldCoord_cursor hn
  have hstop : placeLoop Config.params (812 - n) c = (c.yieldCoord, some f) := by
    rw [show 812 - n = 811 - n + 1 by omega, placeLoop, if_pos (hc.cursor_live hn), hc.placeVisit_faults hn hopen hf]
  rw [hstop] at hloop
  have hkeeps := placeLoop_keeps Config.params 812 b.placeStart
  rw [hloop] at hkeeps
  refine ⟨c.grid, hloop.trans (congrArg (·, some f) (hkeeps.trans ?_)), hc.filled⟩
  simp only [hcursor, Block.yieldCoord_grid, Block.yieldCoord_cx, Block.yieldCoord_cy, Block.yieldCoord_cov,
    Block.yieldCoord_spos, hc.spos, ← hx, ← hy, BitVec.ofNat_toNat, BitVec.setWidth_eq]
  rfl

/-! ### PLACE (R213 to R218) -/

theorem exec_place {s : State} (ho : s.block.opst = .ready) :
    exec .place s = .next { s with block := s.block.placeStream Config.params } := exec_ready .place ho

theorem placeStream_of_fault {b b' : Block} {f : FaultName} (hcv : b.cv = true)
    (hloop : placeLoop Config.params 812 b.placeStart = (b', some f)) :
    b.placeStream Config.params = b'.raiseFault f := by
  rw [Block.placeStream, if_pos hcv, hloop]

theorem placeStream_of_count {b b' : Block} (hcv : b.cv = true)
    (hloop : placeLoop Config.params 812 b.placeStart = (b', none)) (hspos : b'.spos.toNat ≠ 567) :
    b.placeStream Config.params = b'.raiseFault .count := by
  rw [Block.placeStream, if_pos hcv, hloop]
  exact if_pos hspos

theorem placeStream_of_success {b b' : Block} (hcv : b.cv = true)
    (hloop : placeLoop Config.params 812 b.placeStart = (b', none)) (hspos : b'.spos.toNat = 567) :
    b.placeStream Config.params = { b' with pv := true, err := 0x00 } := by
  rw [Block.placeStream, if_pos hcv, hloop]
  exact if_neg (not_not_intro hspos)

/-- Settles O44: the loop completes with SPOS at the stream's length. -/
theorem placeFillsTheGrid : Obligations.PlaceFillsTheGrid := by
  intro s ho hcv hwf hlen hunknown
  obtain ⟨g, hloop, hfilled⟩ := placeLoop_completes hwf hlen.le (hlen ▸ hunknown)
  rw [hlen] at hloop hfilled
  exact ⟨g, by rw [exec_place ho, placeStream_of_success hcv hloop rfl]; rfl, hfilled⟩

/-- Settles O45: the 568th open cell is number 567. -/
theorem placeFaultsWhenBitsRunOut : Obligations.PlaceFaultsWhenBitsRunOut := by
  intro s n ho hcv hwf hn hj hunknown
  obtain ⟨g, hloop, hfilled⟩ := placeLoop_faults hwf hn hj hunknown (.inl ⟨rfl, rfl⟩)
  exact ⟨g, by rw [exec_place ho, placeStream_of_fault hcv hloop]; rfl, hfilled⟩

/-- Settles O46: the loop completes with SPOS below the stream's length. -/
theorem placeFaultsWhenCellsRunOut : Obligations.PlaceFaultsWhenCellsRunOut := by
  intro s ho hcv hwf hlen hunknown
  obtain ⟨g, hloop, hfilled⟩ := placeLoop_completes hwf hlen.le (hunknown.mono hlen.le)
  have hspos : (BitVec.ofNat 10 s.block.openCells.length).toNat ≠ 567 := by
    rw [BitVec.toNat_ofNat]; omega
  exact ⟨g, by rw [exec_place ho, placeStream_of_count hcv hloop hspos]; rfl, hfilled⟩

/-- Settles O47: the loop stops at the Data cell with bits left. -/
theorem placeFaultsOnDataCell : Obligations.PlaceFaultsOnDataCell := by
  intro s j n dark ho hcv hwf hjlt hn hj hdata hunknown
  obtain ⟨g, hloop, hfilled⟩ := placeLoop_faults hwf hn hj hunknown (.inr ⟨hjlt, ⟨dark, hdata⟩, rfl⟩)
  exact ⟨g, by rw [exec_place ho, placeStream_of_fault hcv hloop]; rfl, hfilled⟩

end Sys2Proof.Machine
end

section
/-! SUPPORT. The system commands NOP and GCLR as the host sees them (44_system_commands.md R240, R242). -/

namespace Sys2Proof.Machine

/-- Settles O19: in READY NOP is the change every successful command makes, which clears ERR. -/
theorem nopClearsErrOnly : Obligations.NopClearsErrOnly := fun _ ho => exec_ready .nop ho

/-- Every index of the cleared GRID reads as the code of Unknown (R94). -/
theorem Block.cell_clear (b : Block) (x y : Nat) : ({ b with grid := Memory.clear } : Block).cell x y = .unknown := by
  rw [Block.cell, Memory.get_clear, Module.ofCode_unlisted]

/-- Settles O20: the grid is the cleared one, and the address of a cell reads that cell's code. -/
theorem gclrClearsGridAndPv : Obligations.GclrClearsGridAndPv := by
  intro s ho
  refine ⟨Memory.clear, exec_ready .gclr ho, fun x y hx hy => ?_⟩
  have hcell := s.block.cell_clear x y
  obtain ⟨-, -, hgrid⟩ := windowsShowTheirMemories { s.block with grid := Memory.clear }
  obtain ⟨hread, -⟩ := hgrid x y hx hy
  exact ⟨hcell, by rw [hread, hcell]; rfl⟩

end Sys2Proof.Machine
end

section
/-! SUPPORT. Errors and faults (60_exceptions.md R250 to R271): how a command in READY can end, said once as `CommandEnd`,
and the write of a reserved code. -/

namespace Sys2Proof.Machine

/-! ### Fault entry (R255) -/

/-- Settles O50; ERRF and FAULT are the bits that STATUS shows of ERR and OPST. -/
theorem faultEntryLatchesAndKeeps : Obligations.FaultEntryLatchesAndKeeps := by
  intro f b
  obtain ⟨herrf, hfault, -⟩ := flagRegistersBitByBit (b.raiseFault f)
  exact ⟨rfl, herrf.2 (by simp), hfault.2 rfl⟩

/-! ### The commands out of order (R267) -/

/-- RSENC is refused without valid data codewords. -/
theorem encodeEc_of_not_dv (p : Config.Params) {b : Block} (hdv : b.dv = false) : b.encodeEc p = b.raiseError .seq := by
  rw [Block.encodeEc, if_neg (by simp [hdv])]

/-- PLACE is refused without valid error-correction codewords. -/
theorem placeStream_of_not_cv (p : Config.Params) {b : Block} (hcv : b.cv = false) :
    b.placeStream p = b.raiseError .seq := by
  rw [Block.placeStream, if_neg (by simp [hcv])]

/-- Settles O30. -/
theorem outOfOrderCommandsRaiseSeq : Obligations.OutOfOrderCommandsRaiseSeq := by
  intro s ho
  constructor
  · intro hdv
    rw [exec_ready .rsenc ho, effect, encodeEc_of_not_dv _ hdv]
    rfl
  · intro hcv
    rw [exec_ready .place ho, effect, placeStream_of_not_cv _ hcv]
    rfl

/-! ### A reserved code (R92, R268) -/

/-- A write to CMD, in READY, of a byte that the decoder rejects is the error E_BADCMD. -/
theorem step_badCommand {s : State} {v : Byte} {rest : List Transaction} {r : DecodeReject}
    (hs : s.script = .write 0x000 v :: rest) (ho : s.block.opst = .ready) (hd : decode v = .error r) :
    step s = .next { s with script := rest, block := s.block.raiseError .badCmd } := by
  rw [step_write hs, Block.whenReady_ready ho, writeEffect, target_cmd, hd]

/-- Settles O6: the decoder rejects every byte outside the list of codes. -/
theorem reservedCodeRaisesBadCmd : Obligations.ReservedCodeRaisesBadCmd := by
  intro s v rest hs ho hv
  obtain ⟨-, -, hreject⟩ := decodeEncodeAgree
  exact step_badCommand hs ho (hreject v hv)

/-! ### How a command ends (R250 to R255) -/

/-- The faults that PLACE's loop raises (R215, R216, R252). -/
theorem placeLoop_fault (p : Config.Params) {passes : Nat} {b : Block} {f : FaultName}
    (hf : (placeLoop p passes b).2 = some f) : f = .count ∨ f = .overwrite := by
  induction passes generalizing b with
  | zero => cases hf
  | succ n ih =>
    rw [placeLoop] at hf
    split at hf
    · rcases placeVisit_cases p b with ⟨-, h⟩ | ⟨-, -, h⟩ | ⟨-, -, h⟩ | ⟨-, -, h⟩
      all_goals rw [h] at hf
      · exact ih hf
      · cases hf; exact .inl rfl
      · cases hf; exact .inr rfl
      · exact ih hf
    · cases hf

/-- The block `b'` is what the command `i` may leave of a READY block `b`: a success, an error raised before anything was
written, or a fault of PLACE, which stands on what PLACE wrote. -/
inductive CommandEnd (i : Instr) (b b' : Block) : Prop
  | success (ho : b'.opst = .ready) (herr : b'.err = 0x00)
  | error (e : ErrName) (he : e = .msgTooLong ∨ e = .seq) (hb : b' = b.raiseError e)
  | fault (f : FaultName) (w : Block) (hi : i = .place) (hcv : b.cv = true) (hf : f = .count ∨ f = .overwrite)
      (hb : b' = w.raiseFault f)

/-- BSENC succeeds or raises E_MSGTOOLONG: the frame of a payload that fits passes the length check of R150, so F_BSLEN
is never raised (R271). -/
theorem encodeBits_end {b : Block} (ho : b.opst = .ready) :
    CommandEnd .bsenc b (b.encodeBits Config.params) := by
  by_cases hlong : 440 < 4 + Config.params.ccw + 8 * b.plen.toNat
  · exact .error .msgTooLong (.inl rfl) (encodeBits_of_tooLong hlong)
  · rw [encodeBits_of_fits (not_lt.1 hlong)]
    exact .success ho rfl

/-- RSENC succeeds or raises E_SEQ. -/
theorem encodeEc_end {b : Block} (ho : b.opst = .ready) : CommandEnd .rsenc b (b.encodeEc Config.params) := by
  rcases encodeEc_cases Config.params b with ⟨-, heq⟩ | ⟨-, heq⟩
  · exact .error .seq (.inr rfl) heq
  · exact .success ((b.encodeEc_opst _).trans ho) (by rw [heq])

/-- PLACE succeeds, raises E_SEQ, or enters FAULTED with CV set. -/
theorem placeStream_end {b : Block} (ho : b.opst = .ready) : CommandEnd .place b (b.placeStream Config.params) := by
  rcases placeStream_cases Config.params b with
    ⟨-, heq⟩ | ⟨w, f, hcv, hloop, heq⟩ | ⟨w, hcv, -, -, heq⟩ | ⟨w, -, hloop, -, heq⟩
  · exact .error .seq (.inr rfl) heq
  · exact .fault f w rfl hcv (placeLoop_fault Config.params (congrArg Prod.snd hloop)) heq
  · exact .fault .count w rfl hcv (.inl rfl) heq
  · have hopst : (placeLoop Config.params Config.numCoords b.placeStart).1.opst = .ready := by
      rw [placeLoop_keeps]; exact ho
    rw [hloop] at hopst
    rw [heq]
    exact .success hopst rfl

/-- Every command in READY ends in one of the ways of `CommandEnd`. -/
theorem effect_end (i : Instr) {b : Block} (ho : b.opst = .ready) : CommandEnd i b (effect i b) := by
  cases i with
  | nop | zzinit | gclr => exact .success ho rfl
  | clr => exact .success rfl rfl
  | zznext =>
    refine .success (b.nextCoord_opst.trans ho) ?_
    rcases nextCoord_cases b with ⟨-, heq⟩ | ⟨-, heq⟩ <;> rw [effect, heq]
  | bsenc => exact encodeBits_end ho
  | rsenc => exact encodeEc_end ho
  | place => exact placeStream_end ho

/-- Settles O49: of the ends of a command only an error is READY with ERR not 0x00, and a rejected byte is an error
too. -/
theorem erringCommandChangesErrOnly : Obligations.ErringCommandChangesErrOnly := by
  refine ⟨fun _ _ => rfl, fun s t v rest hs ho hstep hready herr => ?_⟩
  cases hd : decode v with
  | error r =>
    rw [step_badCommand hs ho hd] at hstep
    cases hstep
    exact ⟨rfl, .inr (.inr rfl)⟩
  | ok i =>
    rw [step_command hs hd, exec_ready (s := { s with script := rest }) i ho] at hstep
    cases hstep
    cases effect_end i ho with
    | success _ hzero => exact absurd hzero herr
    | error e he hb =>
      simp only [hb]
      rcases he with rfl | rfl
      · exact ⟨rfl, .inl rfl⟩
      · exact ⟨rfl, .inr (.inl rfl)⟩
    | fault f w _ _ _ hb =>
      simp only [hb, Block.raiseFault_opst] at hready
      cases hready

/-- Settles O51: of the effects of a step and the ends of a command only PLACE's fault is FAULTED. -/
theorem onlyPlaceEntersFaulted : Obligations.OnlyPlaceEntersFaulted := by
  intro s t ho hstep hfaulted
  cases stepEffect_of_step hstep with
  | command i hi hb =>
    cases effect_end i ho with
    | fault f w hplace hcv hf hend =>
      subst hplace
      rw [hb, hend]
      exact ⟨hi, hcv, rfl, hf.imp (congrArg FaultName.code) (congrArg FaultName.code)⟩
    | success hready _ => rw [hb, hready] at hfaulted; cases hfaulted
    | error e _ hend => rw [hb, hend, Block.raiseError_opst, ho] at hfaulted; cases hfaulted
  | reset _ hb => rw [hb] at hfaulted; cases hfaulted
  | unchanged hb | badCommand v _ hb | push v rest _ _ hb | cellWrite x y v _ _ _ hb => simp [hb, ho] at hfaulted

end Sys2Proof.Machine
end

section
/-! SUPPORT. The machine never stops: every step and every command in READY answers a next state (00_scope.md R6,
70_reset_and_hazards.md R290; log entries 1 and 3). -/

namespace Sys2Proof.Machine

/-- Without a transaction of the host the machine stays as it is (R6, R243; log entry 1). -/
theorem step_idle {s : State} (hs : s.script = []) : step s = .next s := by
  simp only [step, stepTransaction, hs]

/-- Each of the ways of `step_cases` answers a next state. -/
theorem step_answers (s : State) : ∃ t, step s = .next t := by
  rcases step_cases s with ⟨-, hst⟩ | ⟨_, _, -, hst⟩ | ⟨_, _, _, -, hst⟩ | ⟨_, -, hst⟩
  all_goals exact ⟨_, hst⟩

/-- Settles O5: the answer of an empty script is the state itself, and a command in READY changes the block only. -/
theorem everyStepAnswers : Obligations.EveryStepAnswers := by
  intro s
  obtain ⟨t, hst⟩ := step_answers s
  refine ⟨t, hst, fun hs => ?_, fun i ho => ⟨_, exec_ready i ho, rfl, rfl⟩⟩
  rw [step_idle hs] at hst
  cases hst
  rfl

end Sys2Proof.Machine
end
